-- ==== Sys2Proof/Word.lean ====
section
/-! DEFINITION. The bit vectors the spec treats as bits (00_scope.md R7): a byte, a 16-bit word, a 32-bit double word
and a 32-bit linear address (R6: the bus address width is 32 bits). -/

namespace Sys2Proof

/-- `u8` of R7. -/
abbrev Byte := BitVec 8

/-- `u16` of R7: a 16-bit register view, an offset, a selector. -/
abbrev Word := BitVec 16

/-- `u32` of R7: the storage of one register slot (R30), or the flags register (R46). -/
abbrev DWord := BitVec 32

/-- A linear address on the bus (R6, R80). -/
abbrev Addr := BitVec 32

end Sys2Proof
end

