-- ==== Sys2Proof/Machine/Bits.lean ====
section
/-! DEFINITION. Bit-field, sign-extension and byte-order helpers, each written once: the fields of the ModRM byte
(30_encoding.md R121), little-endian words (20_memory.md R84) and the extensions of R7. -/

namespace Sys2Proof.Machine

/-- `sext_16` of a byte (00_scope.md R7). -/
def sext16 (b : Byte) : Word := b.signExtend 16

/-- The word whose low byte is `lo` and whose high byte is `hi`: `lo + 256 * hi` (R84, R132). -/
def wordOf (lo hi : Byte) : Word := hi ++ lo

/-- Bits 7:0 of a word. -/
def loByte (w : Word) : Byte := w.extractLsb' 0 8

/-- Bits 15:8 of a word. -/
def hiByte (w : Word) : Byte := w.extractLsb' 8 8

/-- `mod`, bits 7:6 of the ModRM byte (R121). -/
def modField (m : Byte) : BitVec 2 := m.extractLsb' 6 2

/-- `reg`, bits 5:3 of the ModRM byte (R121). -/
def regField (m : Byte) : BitVec 3 := m.extractLsb' 3 3

/-- `rm`, bits 2:0 of the ModRM byte (R121). -/
def rmField (m : Byte) : BitVec 3 := m.extractLsb' 0 3

/-- The ModRM byte with the three fields given (R121). -/
def mkModRM (mod : BitVec 2) (reg rm : BitVec 3) : Byte := mod ++ reg ++ rm

end Sys2Proof.Machine
end

