-- ==== Sys2Proof/Syntax.lean ====
section
/-! DEFINITION. The instruction set as syntax: one constructor of `Instr` per row of spec/opcode_table.json
(30_encoding.md R136, R139), and the operand forms the encodings give (R126 to R128). -/

namespace Sys2Proof

/-- The byte register codes 0 to 7 (30_encoding.md R126, w = 8). -/
inductive Reg8 where
  | al | cl | dl | bl | ah | ch | dh | bh
deriving DecidableEq, Repr

/-- The word register codes 0 to 7 (30_encoding.md R126, w = 16). -/
inductive Reg16 where
  | ax | cx | dx | bx | sp | bp | si | di
deriving DecidableEq, Repr

/-- The six segment registers, numbered 0 to 5 in this order (10_state.md R40). -/
inductive SegReg where
  | es | cs | ss | ds | fs | gs
deriving DecidableEq, Repr

/-- The base table of the effective-address decoder, rm = 0 to 7 in this order (30_encoding.md R128). -/
inductive Base where
  | bxsi | bxdi | bpsi | bpdi | si | di | bp | bx
deriving DecidableEq, Repr

/-- A memory operand of a ModRM byte, mod 0 to 2, with its displacement as encoded (30_encoding.md R127, R128).
`noDisp .bp` has no encoding: mod 0 with rm 6 is `direct` (WellFormed refuses it). -/
inductive MemForm where
  | noDisp (b : Base)              -- mod 0, rm not 6
  | direct (off : Word)            -- mod 0, rm 6
  | disp8 (b : Base) (d : Byte)    -- mod 1
  | disp16 (b : Base) (d : Word)   -- mod 2
deriving DecidableEq, Repr

/-- The ModRM operand E: a register (mod 3) or a memory operand (30_encoding.md R127). `R` is `Reg8` or `Reg16` by the
instruction's width, or the bare 3-bit code while decoding. -/
inductive RM (R : Type) where
  | reg (r : R)
  | mem (m : MemForm)
deriving DecidableEq, Repr

/-- The same operand with its register named in another way. -/
def RM.map {R T : Type} (f : R → T) : RM R → RM T
  | .reg r => .reg (f r)
  | .mem m => .mem m

/-- The eight two-operand operations, numbered 0 to 7 in this order (41_alu.md R255). -/
inductive AluOp where
  | add | or | adc | sbb | and | sub | xor | cmp
deriving DecidableEq, Repr

/-- The sixteen conditions of the conditional jumps, numbered 0 to 15 in this order (45_control.md R394). -/
inductive Cond where
  | o | no | b | nb | z | nz | be | a | s | ns | p | np | l | ge | le | g
deriving DecidableEq, Repr

/-- The nine operand forms of a two-operand instruction (41_alu.md R255), destination first. -/
inductive AluForm where
  | rm8r8 (e : RM Reg8) (g : Reg8)   -- r/m8, r8
  | rm16r16 (e : RM Reg16) (g : Reg16)   -- r/m16, r16
  | r8rm8 (g : Reg8) (e : RM Reg8)   -- r8, r/m8
  | r16rm16 (g : Reg16) (e : RM Reg16)   -- r16, r/m16
  | alImm8 (ib : Byte)   -- AL, imm8
  | axImm16 (iw : Word)   -- AX, imm16
  | rm8Imm8 (e : RM Reg8) (ib : Byte)   -- r/m8, imm8
  | rm16Imm16 (e : RM Reg16) (iw : Word)   -- r/m16, imm16
  | rm16Imm8 (e : RM Reg16) (ib : Byte)   -- r/m16, imm8
deriving DecidableEq, Repr

/-- One constructor per row of spec/opcode_table.json, in the table's order. The prefix bytes are rows of the table
too: each is an instruction of its own here, and Machine/Step.lean runs the prefix loop and the opcode in one Cycle
(40_cycle.md R202). -/
inductive Instr where
  | addRm8R8 (e : RM Reg8) (g : Reg8)   -- ADD r/m8, r8
  | addRm16R16 (e : RM Reg16) (g : Reg16)   -- ADD r/m16, r16
  | addR8Rm8 (g : Reg8) (e : RM Reg8)   -- ADD r8, r/m8
  | addR16Rm16 (g : Reg16) (e : RM Reg16)   -- ADD r16, r/m16
  | addAlImm8 (ib : Byte)   -- ADD AL, imm8
  | addAxImm16 (iw : Word)   -- ADD AX, imm16
  | addRm8Imm8 (e : RM Reg8) (ib : Byte)   -- ADD r/m8, imm8
  | addRm16Imm16 (e : RM Reg16) (iw : Word)   -- ADD r/m16, imm16
  | addRm16Imm8 (e : RM Reg16) (ib : Byte)   -- ADD r/m16, imm8
  | orRm8R8 (e : RM Reg8) (g : Reg8)   -- OR r/m8, r8
  | orRm16R16 (e : RM Reg16) (g : Reg16)   -- OR r/m16, r16
  | orR8Rm8 (g : Reg8) (e : RM Reg8)   -- OR r8, r/m8
  | orR16Rm16 (g : Reg16) (e : RM Reg16)   -- OR r16, r/m16
  | orAlImm8 (ib : Byte)   -- OR AL, imm8
  | orAxImm16 (iw : Word)   -- OR AX, imm16
  | orRm8Imm8 (e : RM Reg8) (ib : Byte)   -- OR r/m8, imm8
  | orRm16Imm16 (e : RM Reg16) (iw : Word)   -- OR r/m16, imm16
  | orRm16Imm8 (e : RM Reg16) (ib : Byte)   -- OR r/m16, imm8
  | adcRm8R8 (e : RM Reg8) (g : Reg8)   -- ADC r/m8, r8
  | adcRm16R16 (e : RM Reg16) (g : Reg16)   -- ADC r/m16, r16
  | adcR8Rm8 (g : Reg8) (e : RM Reg8)   -- ADC r8, r/m8
  | adcR16Rm16 (g : Reg16) (e : RM Reg16)   -- ADC r16, r/m16
  | adcAlImm8 (ib : Byte)   -- ADC AL, imm8
  | adcAxImm16 (iw : Word)   -- ADC AX, imm16
  | adcRm8Imm8 (e : RM Reg8) (ib : Byte)   -- ADC r/m8, imm8
  | adcRm16Imm16 (e : RM Reg16) (iw : Word)   -- ADC r/m16, imm16
  | adcRm16Imm8 (e : RM Reg16) (ib : Byte)   -- ADC r/m16, imm8
  | sbbRm8R8 (e : RM Reg8) (g : Reg8)   -- SBB r/m8, r8
  | sbbRm16R16 (e : RM Reg16) (g : Reg16)   -- SBB r/m16, r16
  | sbbR8Rm8 (g : Reg8) (e : RM Reg8)   -- SBB r8, r/m8
  | sbbR16Rm16 (g : Reg16) (e : RM Reg16)   -- SBB r16, r/m16
  | sbbAlImm8 (ib : Byte)   -- SBB AL, imm8
  | sbbAxImm16 (iw : Word)   -- SBB AX, imm16
  | sbbRm8Imm8 (e : RM Reg8) (ib : Byte)   -- SBB r/m8, imm8
  | sbbRm16Imm16 (e : RM Reg16) (iw : Word)   -- SBB r/m16, imm16
  | sbbRm16Imm8 (e : RM Reg16) (ib : Byte)   -- SBB r/m16, imm8
  | andRm8R8 (e : RM Reg8) (g : Reg8)   -- AND r/m8, r8
  | andRm16R16 (e : RM Reg16) (g : Reg16)   -- AND r/m16, r16
  | andR8Rm8 (g : Reg8) (e : RM Reg8)   -- AND r8, r/m8
  | andR16Rm16 (g : Reg16) (e : RM Reg16)   -- AND r16, r/m16
  | andAlImm8 (ib : Byte)   -- AND AL, imm8
  | andAxImm16 (iw : Word)   -- AND AX, imm16
  | andRm8Imm8 (e : RM Reg8) (ib : Byte)   -- AND r/m8, imm8
  | andRm16Imm16 (e : RM Reg16) (iw : Word)   -- AND r/m16, imm16
  | andRm16Imm8 (e : RM Reg16) (ib : Byte)   -- AND r/m16, imm8
  | subRm8R8 (e : RM Reg8) (g : Reg8)   -- SUB r/m8, r8
  | subRm16R16 (e : RM Reg16) (g : Reg16)   -- SUB r/m16, r16
  | subR8Rm8 (g : Reg8) (e : RM Reg8)   -- SUB r8, r/m8
  | subR16Rm16 (g : Reg16) (e : RM Reg16)   -- SUB r16, r/m16
  | subAlImm8 (ib : Byte)   -- SUB AL, imm8
  | subAxImm16 (iw : Word)   -- SUB AX, imm16
  | subRm8Imm8 (e : RM Reg8) (ib : Byte)   -- SUB r/m8, imm8
  | subRm16Imm16 (e : RM Reg16) (iw : Word)   -- SUB r/m16, imm16
  | subRm16Imm8 (e : RM Reg16) (ib : Byte)   -- SUB r/m16, imm8
  | xorRm8R8 (e : RM Reg8) (g : Reg8)   -- XOR r/m8, r8
  | xorRm16R16 (e : RM Reg16) (g : Reg16)   -- XOR r/m16, r16
  | xorR8Rm8 (g : Reg8) (e : RM Reg8)   -- XOR r8, r/m8
  | xorR16Rm16 (g : Reg16) (e : RM Reg16)   -- XOR r16, r/m16
  | xorAlImm8 (ib : Byte)   -- XOR AL, imm8
  | xorAxImm16 (iw : Word)   -- XOR AX, imm16
  | xorRm8Imm8 (e : RM Reg8) (ib : Byte)   -- XOR r/m8, imm8
  | xorRm16Imm16 (e : RM Reg16) (iw : Word)   -- XOR r/m16, imm16
  | xorRm16Imm8 (e : RM Reg16) (ib : Byte)   -- XOR r/m16, imm8
  | cmpRm8R8 (e : RM Reg8) (g : Reg8)   -- CMP r/m8, r8
  | cmpRm16R16 (e : RM Reg16) (g : Reg16)   -- CMP r/m16, r16
  | cmpR8Rm8 (g : Reg8) (e : RM Reg8)   -- CMP r8, r/m8
  | cmpR16Rm16 (g : Reg16) (e : RM Reg16)   -- CMP r16, r/m16
  | cmpAlImm8 (ib : Byte)   -- CMP AL, imm8
  | cmpAxImm16 (iw : Word)   -- CMP AX, imm16
  | cmpRm8Imm8 (e : RM Reg8) (ib : Byte)   -- CMP r/m8, imm8
  | cmpRm16Imm16 (e : RM Reg16) (iw : Word)   -- CMP r/m16, imm16
  | cmpRm16Imm8 (e : RM Reg16) (ib : Byte)   -- CMP r/m16, imm8
  | mulRm8 (e : RM Reg8)   -- MUL r/m8
  | mulRm16 (e : RM Reg16)   -- MUL r/m16
  | divRm16 (e : RM Reg16)   -- DIV r/m16
  | movRm8R8 (e : RM Reg8) (g : Reg8)   -- MOV r/m8, r8
  | movRm16R16 (e : RM Reg16) (g : Reg16)   -- MOV r/m16, r16
  | movR8Rm8 (g : Reg8) (e : RM Reg8)   -- MOV r8, r/m8
  | movR16Rm16 (g : Reg16) (e : RM Reg16)   -- MOV r16, r/m16
  | movRm16Sreg (e : RM Reg16) (sr : SegReg)   -- MOV r/m16, Sreg
  | movSregRm16 (sr : SegReg) (e : RM Reg16)   -- MOV Sreg, r/m16
  | leaR16M (g : Reg16) (m : MemForm)   -- LEA r16, m
  | movAlMoffs8 (off : Word)   -- MOV AL, moffs8
  | movAxMoffs16 (off : Word)   -- MOV AX, moffs16
  | movMoffs8Al (off : Word)   -- MOV moffs8, AL
  | movMoffs16Ax (off : Word)   -- MOV moffs16, AX
  | movR8Imm8 (r : Reg8) (ib : Byte)   -- MOV r8, imm8
  | movR16Imm16 (r : Reg16) (iw : Word)   -- MOV r16, imm16
  | movRm8Imm8 (e : RM Reg8) (ib : Byte)   -- MOV r/m8, imm8
  | movRm16Imm16 (e : RM Reg16) (iw : Word)   -- MOV r/m16, imm16
  | nop   -- NOP
  | pushR16 (r : Reg16)   -- PUSH r16
  | popR16 (r : Reg16)   -- POP r16
  | pushEs   -- PUSH ES
  | pushCs   -- PUSH CS
  | pushSs   -- PUSH SS
  | pushDs   -- PUSH DS
  | popEs   -- POP ES
  | popSs   -- POP SS
  | popDs   -- POP DS
  | jmpRel8 (d : Byte)   -- JMP rel8
  | jmpRel16 (d : Word)   -- JMP rel16
  | jmpFar (off : Word) (sel : Word)   -- JMP ptr16:16
  | joRel8 (d : Byte)   -- JO rel8
  | jnoRel8 (d : Byte)   -- JNO rel8
  | jbRel8 (d : Byte)   -- JB rel8
  | jnbRel8 (d : Byte)   -- JNB rel8
  | jzRel8 (d : Byte)   -- JZ rel8
  | jnzRel8 (d : Byte)   -- JNZ rel8
  | jbeRel8 (d : Byte)   -- JBE rel8
  | jaRel8 (d : Byte)   -- JA rel8
  | jsRel8 (d : Byte)   -- JS rel8
  | jnsRel8 (d : Byte)   -- JNS rel8
  | jpRel8 (d : Byte)   -- JP rel8
  | jnpRel8 (d : Byte)   -- JNP rel8
  | jlRel8 (d : Byte)   -- JL rel8
  | jgeRel8 (d : Byte)   -- JGE rel8
  | jleRel8 (d : Byte)   -- JLE rel8
  | jgRel8 (d : Byte)   -- JG rel8
  | callRel16 (d : Word)   -- CALL rel16
  | callFar (off : Word) (sel : Word)   -- CALL ptr16:16
  | ret   -- RET
  | retImm16 (iw : Word)   -- RET imm16
  | retf   -- RETF
  | retfImm16 (iw : Word)   -- RETF imm16
  | movsb   -- MOVSB
  | cmpsb   -- CMPSB
  | lodsb   -- LODSB
  | intImm8 (n : Byte)   -- INT imm8
  | clc   -- CLC
  | stc   -- STC
  | cmc   -- CMC
  | cli   -- CLI
  | sti   -- STI
  | cld   -- CLD
  | std   -- STD
  | esOverride   -- ES: (segment override)
  | csOverride   -- CS: (segment override)
  | ssOverride   -- SS: (segment override)
  | dsOverride   -- DS: (segment override)
  | fsOverride   -- FS: (segment override)
  | gsOverride   -- GS: (segment override)
  | repPrefix   -- REP (repeat prefix)
deriving DecidableEq, Repr

/-- The row of operation `op` and form `f` (41_alu.md R255). -/
def Instr.alu : AluOp → AluForm → Instr
  | .add, .rm8r8 e g => .addRm8R8 e g
  | .add, .rm16r16 e g => .addRm16R16 e g
  | .add, .r8rm8 g e => .addR8Rm8 g e
  | .add, .r16rm16 g e => .addR16Rm16 g e
  | .add, .alImm8 ib => .addAlImm8 ib
  | .add, .axImm16 iw => .addAxImm16 iw
  | .add, .rm8Imm8 e ib => .addRm8Imm8 e ib
  | .add, .rm16Imm16 e iw => .addRm16Imm16 e iw
  | .add, .rm16Imm8 e ib => .addRm16Imm8 e ib
  | .or, .rm8r8 e g => .orRm8R8 e g
  | .or, .rm16r16 e g => .orRm16R16 e g
  | .or, .r8rm8 g e => .orR8Rm8 g e
  | .or, .r16rm16 g e => .orR16Rm16 g e
  | .or, .alImm8 ib => .orAlImm8 ib
  | .or, .axImm16 iw => .orAxImm16 iw
  | .or, .rm8Imm8 e ib => .orRm8Imm8 e ib
  | .or, .rm16Imm16 e iw => .orRm16Imm16 e iw
  | .or, .rm16Imm8 e ib => .orRm16Imm8 e ib
  | .adc, .rm8r8 e g => .adcRm8R8 e g
  | .adc, .rm16r16 e g => .adcRm16R16 e g
  | .adc, .r8rm8 g e => .adcR8Rm8 g e
  | .adc, .r16rm16 g e => .adcR16Rm16 g e
  | .adc, .alImm8 ib => .adcAlImm8 ib
  | .adc, .axImm16 iw => .adcAxImm16 iw
  | .adc, .rm8Imm8 e ib => .adcRm8Imm8 e ib
  | .adc, .rm16Imm16 e iw => .adcRm16Imm16 e iw
  | .adc, .rm16Imm8 e ib => .adcRm16Imm8 e ib
  | .sbb, .rm8r8 e g => .sbbRm8R8 e g
  | .sbb, .rm16r16 e g => .sbbRm16R16 e g
  | .sbb, .r8rm8 g e => .sbbR8Rm8 g e
  | .sbb, .r16rm16 g e => .sbbR16Rm16 g e
  | .sbb, .alImm8 ib => .sbbAlImm8 ib
  | .sbb, .axImm16 iw => .sbbAxImm16 iw
  | .sbb, .rm8Imm8 e ib => .sbbRm8Imm8 e ib
  | .sbb, .rm16Imm16 e iw => .sbbRm16Imm16 e iw
  | .sbb, .rm16Imm8 e ib => .sbbRm16Imm8 e ib
  | .and, .rm8r8 e g => .andRm8R8 e g
  | .and, .rm16r16 e g => .andRm16R16 e g
  | .and, .r8rm8 g e => .andR8Rm8 g e
  | .and, .r16rm16 g e => .andR16Rm16 g e
  | .and, .alImm8 ib => .andAlImm8 ib
  | .and, .axImm16 iw => .andAxImm16 iw
  | .and, .rm8Imm8 e ib => .andRm8Imm8 e ib
  | .and, .rm16Imm16 e iw => .andRm16Imm16 e iw
  | .and, .rm16Imm8 e ib => .andRm16Imm8 e ib
  | .sub, .rm8r8 e g => .subRm8R8 e g
  | .sub, .rm16r16 e g => .subRm16R16 e g
  | .sub, .r8rm8 g e => .subR8Rm8 g e
  | .sub, .r16rm16 g e => .subR16Rm16 g e
  | .sub, .alImm8 ib => .subAlImm8 ib
  | .sub, .axImm16 iw => .subAxImm16 iw
  | .sub, .rm8Imm8 e ib => .subRm8Imm8 e ib
  | .sub, .rm16Imm16 e iw => .subRm16Imm16 e iw
  | .sub, .rm16Imm8 e ib => .subRm16Imm8 e ib
  | .xor, .rm8r8 e g => .xorRm8R8 e g
  | .xor, .rm16r16 e g => .xorRm16R16 e g
  | .xor, .r8rm8 g e => .xorR8Rm8 g e
  | .xor, .r16rm16 g e => .xorR16Rm16 g e
  | .xor, .alImm8 ib => .xorAlImm8 ib
  | .xor, .axImm16 iw => .xorAxImm16 iw
  | .xor, .rm8Imm8 e ib => .xorRm8Imm8 e ib
  | .xor, .rm16Imm16 e iw => .xorRm16Imm16 e iw
  | .xor, .rm16Imm8 e ib => .xorRm16Imm8 e ib
  | .cmp, .rm8r8 e g => .cmpRm8R8 e g
  | .cmp, .rm16r16 e g => .cmpRm16R16 e g
  | .cmp, .r8rm8 g e => .cmpR8Rm8 g e
  | .cmp, .r16rm16 g e => .cmpR16Rm16 g e
  | .cmp, .alImm8 ib => .cmpAlImm8 ib
  | .cmp, .axImm16 iw => .cmpAxImm16 iw
  | .cmp, .rm8Imm8 e ib => .cmpRm8Imm8 e ib
  | .cmp, .rm16Imm16 e iw => .cmpRm16Imm16 e iw
  | .cmp, .rm16Imm8 e ib => .cmpRm16Imm8 e ib

/-- The conditional jump of condition `c` (45_control.md R394). -/
def Instr.jcc : Cond → Byte → Instr
  | .o, d => .joRel8 d
  | .no, d => .jnoRel8 d
  | .b, d => .jbRel8 d
  | .nb, d => .jnbRel8 d
  | .z, d => .jzRel8 d
  | .nz, d => .jnzRel8 d
  | .be, d => .jbeRel8 d
  | .a, d => .jaRel8 d
  | .s, d => .jsRel8 d
  | .ns, d => .jnsRel8 d
  | .p, d => .jpRel8 d
  | .np, d => .jnpRel8 d
  | .l, d => .jlRel8 d
  | .ge, d => .jgeRel8 d
  | .le, d => .jleRel8 d
  | .g, d => .jgRel8 d

/-- The seven prefix bytes (30_encoding.md R130). -/
def Instr.isPrefix : Instr → Bool
  | .esOverride => true
  | .csOverride => true
  | .ssOverride => true
  | .dsOverride => true
  | .fsOverride => true
  | .gsOverride => true
  | .repPrefix => true
  | _ => false

end Sys2Proof
end

