-- ==== Sys2Proof/WellFormed.lean ====
section
/-! DEFINITION. Which terms of `Instr` are instructions of the core: those an encoding exists for. Two checks: mod 0
with base BP has no encoding (30_encoding.md R127, R128: mod 0 rm 6 is the direct address), and MOV Sreg never names
CS (30_encoding.md R134, 43_move.md R325). -/

namespace Sys2Proof

/-- Mod 0 with rm 6 is the direct address, so there is no `[BP]` without a displacement (30_encoding.md R128). -/
def MemForm.wellFormed : MemForm → Bool
  | .noDisp b => b != .bp
  | .direct _ => true
  | .disp8 _ _ => true
  | .disp16 _ _ => true

/-- A register operand always has an encoding; a memory operand when its form has. -/
def RM.wellFormed {R : Type} : RM R → Bool
  | .reg _ => true
  | .mem m => m.wellFormed

/-- An instruction has an encoding (30_encoding.md R122, R134). -/
def Instr.wellFormed : Instr → Bool
  | .addRm8R8 e _ => e.wellFormed
  | .addRm16R16 e _ => e.wellFormed
  | .addR8Rm8 _ e => e.wellFormed
  | .addR16Rm16 _ e => e.wellFormed
  | .addAlImm8 _ => true
  | .addAxImm16 _ => true
  | .addRm8Imm8 e _ => e.wellFormed
  | .addRm16Imm16 e _ => e.wellFormed
  | .addRm16Imm8 e _ => e.wellFormed
  | .orRm8R8 e _ => e.wellFormed
  | .orRm16R16 e _ => e.wellFormed
  | .orR8Rm8 _ e => e.wellFormed
  | .orR16Rm16 _ e => e.wellFormed
  | .orAlImm8 _ => true
  | .orAxImm16 _ => true
  | .orRm8Imm8 e _ => e.wellFormed
  | .orRm16Imm16 e _ => e.wellFormed
  | .orRm16Imm8 e _ => e.wellFormed
  | .adcRm8R8 e _ => e.wellFormed
  | .adcRm16R16 e _ => e.wellFormed
  | .adcR8Rm8 _ e => e.wellFormed
  | .adcR16Rm16 _ e => e.wellFormed
  | .adcAlImm8 _ => true
  | .adcAxImm16 _ => true
  | .adcRm8Imm8 e _ => e.wellFormed
  | .adcRm16Imm16 e _ => e.wellFormed
  | .adcRm16Imm8 e _ => e.wellFormed
  | .sbbRm8R8 e _ => e.wellFormed
  | .sbbRm16R16 e _ => e.wellFormed
  | .sbbR8Rm8 _ e => e.wellFormed
  | .sbbR16Rm16 _ e => e.wellFormed
  | .sbbAlImm8 _ => true
  | .sbbAxImm16 _ => true
  | .sbbRm8Imm8 e _ => e.wellFormed
  | .sbbRm16Imm16 e _ => e.wellFormed
  | .sbbRm16Imm8 e _ => e.wellFormed
  | .andRm8R8 e _ => e.wellFormed
  | .andRm16R16 e _ => e.wellFormed
  | .andR8Rm8 _ e => e.wellFormed
  | .andR16Rm16 _ e => e.wellFormed
  | .andAlImm8 _ => true
  | .andAxImm16 _ => true
  | .andRm8Imm8 e _ => e.wellFormed
  | .andRm16Imm16 e _ => e.wellFormed
  | .andRm16Imm8 e _ => e.wellFormed
  | .subRm8R8 e _ => e.wellFormed
  | .subRm16R16 e _ => e.wellFormed
  | .subR8Rm8 _ e => e.wellFormed
  | .subR16Rm16 _ e => e.wellFormed
  | .subAlImm8 _ => true
  | .subAxImm16 _ => true
  | .subRm8Imm8 e _ => e.wellFormed
  | .subRm16Imm16 e _ => e.wellFormed
  | .subRm16Imm8 e _ => e.wellFormed
  | .xorRm8R8 e _ => e.wellFormed
  | .xorRm16R16 e _ => e.wellFormed
  | .xorR8Rm8 _ e => e.wellFormed
  | .xorR16Rm16 _ e => e.wellFormed
  | .xorAlImm8 _ => true
  | .xorAxImm16 _ => true
  | .xorRm8Imm8 e _ => e.wellFormed
  | .xorRm16Imm16 e _ => e.wellFormed
  | .xorRm16Imm8 e _ => e.wellFormed
  | .cmpRm8R8 e _ => e.wellFormed
  | .cmpRm16R16 e _ => e.wellFormed
  | .cmpR8Rm8 _ e => e.wellFormed
  | .cmpR16Rm16 _ e => e.wellFormed
  | .cmpAlImm8 _ => true
  | .cmpAxImm16 _ => true
  | .cmpRm8Imm8 e _ => e.wellFormed
  | .cmpRm16Imm16 e _ => e.wellFormed
  | .cmpRm16Imm8 e _ => e.wellFormed
  | .mulRm8 e => e.wellFormed
  | .mulRm16 e => e.wellFormed
  | .divRm16 e => e.wellFormed
  | .movRm8R8 e _ => e.wellFormed
  | .movRm16R16 e _ => e.wellFormed
  | .movR8Rm8 _ e => e.wellFormed
  | .movR16Rm16 _ e => e.wellFormed
  | .movRm16Sreg e _ => e.wellFormed
  | .movSregRm16 sr e => sr != .cs && e.wellFormed
  | .leaR16M _ m => m.wellFormed
  | .movAlMoffs8 _ => true
  | .movAxMoffs16 _ => true
  | .movMoffs8Al _ => true
  | .movMoffs16Ax _ => true
  | .movR8Imm8 _ _ => true
  | .movR16Imm16 _ _ => true
  | .movRm8Imm8 e _ => e.wellFormed
  | .movRm16Imm16 e _ => e.wellFormed
  | .nop => true
  | .pushR16 _ => true
  | .popR16 _ => true
  | .pushEs => true
  | .pushCs => true
  | .pushSs => true
  | .pushDs => true
  | .popEs => true
  | .popSs => true
  | .popDs => true
  | .jmpRel8 _ => true
  | .jmpRel16 _ => true
  | .jmpFar _ _ => true
  | .joRel8 _ => true
  | .jnoRel8 _ => true
  | .jbRel8 _ => true
  | .jnbRel8 _ => true
  | .jzRel8 _ => true
  | .jnzRel8 _ => true
  | .jbeRel8 _ => true
  | .jaRel8 _ => true
  | .jsRel8 _ => true
  | .jnsRel8 _ => true
  | .jpRel8 _ => true
  | .jnpRel8 _ => true
  | .jlRel8 _ => true
  | .jgeRel8 _ => true
  | .jleRel8 _ => true
  | .jgRel8 _ => true
  | .callRel16 _ => true
  | .callFar _ _ => true
  | .ret => true
  | .retImm16 _ => true
  | .retf => true
  | .retfImm16 _ => true
  | .movsb => true
  | .cmpsb => true
  | .lodsb => true
  | .intImm8 _ => true
  | .clc => true
  | .stc => true
  | .cmc => true
  | .cli => true
  | .sti => true
  | .cld => true
  | .std => true
  | .esOverride => true
  | .csOverride => true
  | .ssOverride => true
  | .dsOverride => true
  | .fsOverride => true
  | .gsOverride => true
  | .repPrefix => true

end Sys2Proof
end

