-- ==== Sys2Proof/Decode.lean ====
section
/-! DEFINITION. The decoder: the opcode map of 30_encoding.md R133, the ModRM and displacement decoder of R127 and
R128, the immediates of R132, total on any bytes, each rejection with a name of its own. After it the encoder, written
from the same formats (R122). The decoder reads through a `Fetcher`, so that one text decodes a list of bytes and the
bytes behind CS:IP, where a word fetch at IP = 0xFFFF does not wrap and a byte fetch does (40_cycle.md R203). -/

namespace Sys2Proof

open Sys2Proof.Machine

/-! ## Register, segment, base and operation codes (R124, R126, R128) -/

/-- The 3-bit code of a byte register (30_encoding.md R126). -/
def Reg8.code : Reg8 → BitVec 3
  | .al => 0
  | .cl => 1
  | .dl => 2
  | .bl => 3
  | .ah => 4
  | .ch => 5
  | .dh => 6
  | .bh => 7

/-- The byte register of a 3-bit code (30_encoding.md R126). -/
def Reg8.ofCode (c : BitVec 3) : Reg8 :=
  match c with
  | 0#3 => .al
  | 1#3 => .cl
  | 2#3 => .dl
  | 3#3 => .bl
  | 4#3 => .ah
  | 5#3 => .ch
  | 6#3 => .dh
  | _ => .bh

/-- The 3-bit code of a word register (30_encoding.md R126). -/
def Reg16.code : Reg16 → BitVec 3
  | .ax => 0
  | .cx => 1
  | .dx => 2
  | .bx => 3
  | .sp => 4
  | .bp => 5
  | .si => 6
  | .di => 7

/-- The word register of a 3-bit code (30_encoding.md R126). -/
def Reg16.ofCode (c : BitVec 3) : Reg16 :=
  match c with
  | 0#3 => .ax
  | 1#3 => .cx
  | 2#3 => .dx
  | 3#3 => .bx
  | 4#3 => .sp
  | 5#3 => .bp
  | 6#3 => .si
  | _ => .di

/-- The 3-bit code of a segment register (10_state.md R40). -/
def SegReg.code : SegReg → BitVec 3
  | .es => 0
  | .cs => 1
  | .ss => 2
  | .ds => 3
  | .fs => 4
  | .gs => 5

/-- The segment register of a 3-bit code; codes 6 and 7 select none (30_encoding.md R126). -/
def SegReg.ofCode (c : BitVec 3) : Option SegReg :=
  match c with
  | 0#3 => some .es
  | 1#3 => some .cs
  | 2#3 => some .ss
  | 3#3 => some .ds
  | 4#3 => some .fs
  | 5#3 => some .gs
  | _ => none

/-- The segment register MOV Sreg, r/m16 may load: not CS, and not codes 6 and 7 (30_encoding.md R134). -/
def SegReg.ofLoadCode (c : BitVec 3) : Option SegReg :=
  if c = SegReg.cs.code then none else SegReg.ofCode c

/-- The rm code of a base (30_encoding.md R128). -/
def Base.code : Base → BitVec 3
  | .bxsi => 0
  | .bxdi => 1
  | .bpsi => 2
  | .bpdi => 3
  | .si => 4
  | .di => 5
  | .bp => 6
  | .bx => 7

/-- The base of an rm code (30_encoding.md R128). -/
def Base.ofCode (c : BitVec 3) : Base :=
  match c with
  | 0#3 => .bxsi
  | 1#3 => .bxdi
  | 2#3 => .bpsi
  | 3#3 => .bpdi
  | 4#3 => .si
  | 5#3 => .di
  | 6#3 => .bp
  | _ => .bx

/-- The number of a two-operand operation (30_encoding.md R124). -/
def AluOp.code : AluOp → BitVec 3
  | .add => 0
  | .or => 1
  | .adc => 2
  | .sbb => 3
  | .and => 4
  | .sub => 5
  | .xor => 6
  | .cmp => 7

/-- The two-operand operation of a number (30_encoding.md R124). -/
def AluOp.ofCode (c : BitVec 3) : AluOp :=
  match c with
  | 0#3 => .add
  | 1#3 => .or
  | 2#3 => .adc
  | 3#3 => .sbb
  | 4#3 => .and
  | 5#3 => .sub
  | 6#3 => .xor
  | _ => .cmp

/-! ## The opcode map (R133) -/

/-- What the opcode map gives for a byte: the format (30_encoding.md R122) and the instruction made from its fields.
`pick` and the group entries see the ModRM reg field alone, so an illegal value is rejected before any displacement or
immediate is fetched (R134). -/
inductive OpEntry where
  /-- Formats `none`, `reg3` and `prefix`: no further byte. -/
  | plain (i : Instr)
  /-- Formats `ib`, `rel8`, `reg3_ib`: one immediate byte. -/
  | imm8 (mk : Byte → Instr)
  /-- Formats `iw`, `rel16`, `moffs16`, `reg3_iw`: one immediate word. -/
  | imm16 (mk : Word → Instr)
  /-- Format `ptr16_16`: an offset word, then a selector word. -/
  | far (mk : Word → Word → Instr)
  /-- Format `modrm`. -/
  | modrm (pick : BitVec 3 → Option (RM (BitVec 3) → Instr))
  /-- Format `modrm` with a memory operand only: mod 3 is illegal (LEA, R134). -/
  | modrmMem (mk : BitVec 3 → MemForm → Instr)
  /-- Format `modrm_ib`. -/
  | modrmImm8 (pick : BitVec 3 → Option (RM (BitVec 3) → Byte → Instr))
  /-- Format `modrm_iw`. -/
  | modrmImm16 (pick : BitVec 3 → Option (RM (BitVec 3) → Word → Instr))

/-- The six one-byte-opcode forms of a two-operand operation, opcodes op*8 + 0 to op*8 + 5 (41_alu.md R255). -/
def aluEntries (op : AluOp) : List (Option OpEntry) := [
  some (.modrm fun g => some fun e => .alu op (.rm8r8 (e.map Reg8.ofCode) (Reg8.ofCode g))),
  some (.modrm fun g => some fun e => .alu op (.rm16r16 (e.map Reg16.ofCode) (Reg16.ofCode g))),
  some (.modrm fun g => some fun e => .alu op (.r8rm8 (Reg8.ofCode g) (e.map Reg8.ofCode))),
  some (.modrm fun g => some fun e => .alu op (.r16rm16 (Reg16.ofCode g) (e.map Reg16.ofCode))),
  some (.imm8 fun ib => .alu op (.alImm8 ib)),
  some (.imm16 fun iw => .alu op (.axImm16 iw))]

/-- Row 0 of the opcode map (30_encoding.md R133). -/
def opRow0 : List (Option OpEntry) := aluEntries .add ++ [some (.plain .pushEs), some (.plain .popEs)] ++
  aluEntries .or ++ [some (.plain .pushCs), none]

/-- Row 1 of the opcode map (30_encoding.md R133). -/
def opRow1 : List (Option OpEntry) := aluEntries .adc ++ [some (.plain .pushSs), some (.plain .popSs)] ++
  aluEntries .sbb ++ [some (.plain .pushDs), some (.plain .popDs)]

/-- Row 2 of the opcode map (30_encoding.md R133). -/
def opRow2 : List (Option OpEntry) := aluEntries .and ++ [some (.plain .esOverride), none] ++
  aluEntries .sub ++ [some (.plain .csOverride), none]

/-- Row 3 of the opcode map (30_encoding.md R133). -/
def opRow3 : List (Option OpEntry) := aluEntries .xor ++ [some (.plain .ssOverride), none] ++
  aluEntries .cmp ++ [some (.plain .dsOverride), none]

/-- Row 4 of the opcode map (30_encoding.md R133). -/
def opRow4 : List (Option OpEntry) := [
  none, none, none, none,
  none, none, none, none,
  none, none, none, none,
  none, none, none, none]

/-- Row 5 of the opcode map (30_encoding.md R133). -/
def opRow5 : List (Option OpEntry) := [
  some (.plain (.pushR16 .ax)), some (.plain (.pushR16 .cx)), some (.plain (.pushR16 .dx)), some (.plain (.pushR16 .bx)),
  some (.plain (.pushR16 .sp)), some (.plain (.pushR16 .bp)), some (.plain (.pushR16 .si)), some (.plain (.pushR16 .di)),
  some (.plain (.popR16 .ax)), some (.plain (.popR16 .cx)), some (.plain (.popR16 .dx)), some (.plain (.popR16 .bx)),
  some (.plain (.popR16 .sp)), some (.plain (.popR16 .bp)), some (.plain (.popR16 .si)), some (.plain (.popR16 .di))]

/-- Row 6 of the opcode map (30_encoding.md R133). -/
def opRow6 : List (Option OpEntry) := [
  none, none, none, none,
  some (.plain .fsOverride), some (.plain .gsOverride), none, none,
  none, none, none, none,
  none, none, none, none]

/-- Row 7 of the opcode map (30_encoding.md R133). -/
def opRow7 : List (Option OpEntry) := [
  some (.imm8 .joRel8), some (.imm8 .jnoRel8), some (.imm8 .jbRel8), some (.imm8 .jnbRel8),
  some (.imm8 .jzRel8), some (.imm8 .jnzRel8), some (.imm8 .jbeRel8), some (.imm8 .jaRel8),
  some (.imm8 .jsRel8), some (.imm8 .jnsRel8), some (.imm8 .jpRel8), some (.imm8 .jnpRel8),
  some (.imm8 .jlRel8), some (.imm8 .jgeRel8), some (.imm8 .jleRel8), some (.imm8 .jgRel8)]

/-- Row 8 of the opcode map (30_encoding.md R133). -/
def opRow8 : List (Option OpEntry) := [
  some (.modrmImm8 fun g => some fun e ib => .alu (AluOp.ofCode g) (.rm8Imm8 (e.map Reg8.ofCode) ib)),
  some (.modrmImm16 fun g => some fun e iw => .alu (AluOp.ofCode g) (.rm16Imm16 (e.map Reg16.ofCode) iw)),
  none,
  some (.modrmImm8 fun g => some fun e ib => .alu (AluOp.ofCode g) (.rm16Imm8 (e.map Reg16.ofCode) ib)),
  none, none, none, none,
  some (.modrm fun g => some fun e => .movRm8R8 (e.map Reg8.ofCode) (Reg8.ofCode g)),
  some (.modrm fun g => some fun e => .movRm16R16 (e.map Reg16.ofCode) (Reg16.ofCode g)),
  some (.modrm fun g => some fun e => .movR8Rm8 (Reg8.ofCode g) (e.map Reg8.ofCode)),
  some (.modrm fun g => some fun e => .movR16Rm16 (Reg16.ofCode g) (e.map Reg16.ofCode)),
  some (.modrm fun g => (SegReg.ofCode g).map fun sr e => .movRm16Sreg (e.map Reg16.ofCode) sr),
  some (.modrmMem fun g m => .leaR16M (Reg16.ofCode g) m),
  some (.modrm fun g => (SegReg.ofLoadCode g).map fun sr e => .movSregRm16 sr (e.map Reg16.ofCode)),
  none]

/-- Row 9 of the opcode map (30_encoding.md R133). -/
def opRow9 : List (Option OpEntry) := [
  some (.plain .nop), none, none, none,
  none, none, none, none,
  none, none, some (.far .callFar), none,
  none, none, none, none]

/-- Row A of the opcode map (30_encoding.md R133). -/
def opRowA : List (Option OpEntry) := [
  some (.imm16 .movAlMoffs8), some (.imm16 .movAxMoffs16), some (.imm16 .movMoffs8Al), some (.imm16 .movMoffs16Ax),
  some (.plain .movsb), none, some (.plain .cmpsb), none,
  none, none, none, none,
  some (.plain .lodsb), none, none, none]

/-- Row B of the opcode map (30_encoding.md R133). -/
def opRowB : List (Option OpEntry) := [
  some (.imm8 (.movR8Imm8 .al)), some (.imm8 (.movR8Imm8 .cl)), some (.imm8 (.movR8Imm8 .dl)), some (.imm8 (.movR8Imm8 .bl)),
  some (.imm8 (.movR8Imm8 .ah)), some (.imm8 (.movR8Imm8 .ch)), some (.imm8 (.movR8Imm8 .dh)), some (.imm8 (.movR8Imm8 .bh)),
  some (.imm16 (.movR16Imm16 .ax)), some (.imm16 (.movR16Imm16 .cx)), some (.imm16 (.movR16Imm16 .dx)), some (.imm16 (.movR16Imm16 .bx)),
  some (.imm16 (.movR16Imm16 .sp)), some (.imm16 (.movR16Imm16 .bp)), some (.imm16 (.movR16Imm16 .si)), some (.imm16 (.movR16Imm16 .di))]

/-- Row C of the opcode map (30_encoding.md R133). -/
def opRowC : List (Option OpEntry) := [
  none, none, some (.imm16 .retImm16), some (.plain .ret),
  none, none,
  some (.modrmImm8 fun g => if g = 0 then some fun e ib => .movRm8Imm8 (e.map Reg8.ofCode) ib else none),
  some (.modrmImm16 fun g => if g = 0 then some fun e iw => .movRm16Imm16 (e.map Reg16.ofCode) iw else none),
  none, none, some (.imm16 .retfImm16), some (.plain .retf),
  none, some (.imm8 .intImm8), none, none]

/-- Row D of the opcode map (30_encoding.md R133). -/
def opRowD : List (Option OpEntry) := [
  none, none, none, none,
  none, none, none, none,
  none, none, none, none,
  none, none, none, none]

/-- Row E of the opcode map (30_encoding.md R133). -/
def opRowE : List (Option OpEntry) := [
  none, none, none, none,
  none, none, none, none,
  some (.imm16 .callRel16), some (.imm16 .jmpRel16), some (.far .jmpFar), some (.imm8 .jmpRel8),
  none, none, none, none]

/-- Row F of the opcode map (30_encoding.md R133). -/
def opRowF : List (Option OpEntry) := [
  none, none, none, some (.plain .repPrefix),
  none, some (.plain .cmc),
  some (.modrm fun g => if g = 4 then some fun e => .mulRm8 (e.map Reg8.ofCode) else none),
  some (.modrm fun g => if g = 4 then some fun e => .mulRm16 (e.map Reg16.ofCode)
    else if g = 6 then some fun e => .divRm16 (e.map Reg16.ofCode) else none),
  some (.plain .clc), some (.plain .stc), some (.plain .cli), some (.plain .sti),
  some (.plain .cld), some (.plain .std), none, none]

/-- The sixteen rows of the opcode map, by the high half of the byte (30_encoding.md R133). -/
def opRows : List (List (Option OpEntry)) :=
  [opRow0, opRow1, opRow2, opRow3, opRow4, opRow5, opRow6, opRow7] ++
  [opRow8, opRow9, opRowA, opRowB, opRowC, opRowD, opRowE, opRowF]

/-- The entry of a byte in the opcode position; none is a "—" of the map (30_encoding.md R133). -/
def opcodeMap (b : Byte) : Option OpEntry :=
  (opRows.getD (b.extractLsb' 4 4).toNat []).getD (b.extractLsb' 0 4).toNat none

/-! ## Reading the bytes -/

/-- Where the decoder reads from: `Fetch8` and `Fetch16` of 40_cycle.md R203, or their like over a list of bytes. A
word comes as its low byte and its high byte. -/
structure Fetcher (σ : Type) where
  next8 : σ → Option (Byte × σ)
  next16 : σ → Option (Byte × Byte × σ)

/-- A place in the byte stream, and the bytes fetched so far in order (R202 records them on a decode failure). -/
structure Cursor (σ : Type) where
  pos : σ
  seen : List Byte
deriving DecidableEq, Repr

/-- Why decoding stops. -/
inductive DecodeError where
  /-- The bytes end inside the instruction. Only a list of bytes can end; memory never does. -/
  | truncated
  /-- The byte in the opcode position has no row (30_encoding.md R133). -/
  | illegalOpcode (op : Byte)
  /-- The ModRM byte is outside the row's legal set (30_encoding.md R134). -/
  | illegalModRM (op m : Byte)
deriving DecidableEq, Repr

/-- What decoding one instruction (or one prefix byte) answers, and where it stopped reading. -/
inductive Decoded (σ : Type) where
  | ok (i : Instr) (c : Cursor σ)
  | bad (e : DecodeError) (c : Cursor σ)
deriving DecidableEq, Repr

variable {σ : Type}

/-- Read one byte, then go on. -/
def fetch8 (F : Fetcher σ) (c : Cursor σ) (k : Byte → Cursor σ → Decoded σ) : Decoded σ :=
  match F.next8 c.pos with
  | none => .bad .truncated c
  | some (b, p) => k b ⟨p, c.seen ++ [b]⟩

/-- Read one little-endian word, then go on. -/
def fetch16 (F : Fetcher σ) (c : Cursor σ) (k : Word → Cursor σ → Decoded σ) : Decoded σ :=
  match F.next16 c.pos with
  | none => .bad .truncated c
  | some (lo, hi, p) => k (wordOf lo hi) ⟨p, c.seen ++ [lo, hi]⟩

/-- The displacement of a memory operand, after its ModRM byte (30_encoding.md R127, R128). Mod 3 does not come here. -/
def decodeMem (F : Fetcher σ) (m : Byte) (c : Cursor σ) (k : MemForm → Cursor σ → Decoded σ) : Decoded σ :=
  if modField m = 0 then
    if rmField m = 6 then fetch16 F c fun off c => k (.direct off) c
    else k (.noDisp (Base.ofCode (rmField m))) c
  else if modField m = 1 then fetch8 F c fun d c => k (.disp8 (Base.ofCode (rmField m)) d) c
  else fetch16 F c fun d c => k (.disp16 (Base.ofCode (rmField m)) d) c

/-- The ModRM operand E, after its ModRM byte (30_encoding.md R127). -/
def decodeRM (F : Fetcher σ) (m : Byte) (c : Cursor σ) (k : RM (BitVec 3) → Cursor σ → Decoded σ) : Decoded σ :=
  if modField m = 3 then k (.reg (rmField m)) c
  else decodeMem F m c fun mf c => k (.mem mf) c

/-- Read the fields an entry of the opcode map asks for, in order: ModRM, displacement, immediate (30_encoding.md R120,
R122). `op` is the opcode byte already read. -/
def decodeEntry (F : Fetcher σ) (op : Byte) (c : Cursor σ) : OpEntry → Decoded σ
  | .plain i => .ok i c
  | .imm8 mk => fetch8 F c fun ib c => .ok (mk ib) c
  | .imm16 mk => fetch16 F c fun iw c => .ok (mk iw) c
  | .far mk => fetch16 F c fun off c => fetch16 F c fun sel c => .ok (mk off sel) c
  | .modrm pick => fetch8 F c fun m c =>
      match pick (regField m) with
      | none => .bad (.illegalModRM op m) c
      | some mk => decodeRM F m c fun e c => .ok (mk e) c
  | .modrmMem mk => fetch8 F c fun m c =>
      if modField m = 3 then .bad (.illegalModRM op m) c
      else decodeMem F m c fun mf c => .ok (mk (regField m) mf) c
  | .modrmImm8 pick => fetch8 F c fun m c =>
      match pick (regField m) with
      | none => .bad (.illegalModRM op m) c
      | some mk => decodeRM F m c fun e c => fetch8 F c fun ib c => .ok (mk e ib) c
  | .modrmImm16 pick => fetch8 F c fun m c =>
      match pick (regField m) with
      | none => .bad (.illegalModRM op m) c
      | some mk => decodeRM F m c fun e c => fetch16 F c fun iw c => .ok (mk e iw) c

/-- Decode one instruction, or one prefix byte, at a cursor (30_encoding.md R120, R133, R134). -/
def decodeFrom (F : Fetcher σ) (c : Cursor σ) : Decoded σ :=
  fetch8 F c fun op c =>
    match opcodeMap op with
    | none => .bad (.illegalOpcode op) c
    | some e => decodeEntry F op c e

/-- Reading from a list of bytes. -/
def listFetcher : Fetcher (List Byte) where
  next8
    | [] => none
    | b :: r => some (b, r)
  next16
    | lo :: hi :: r => some (lo, hi, r)
    | _ => none

/-- Decode the first instruction (or prefix byte) of a list of bytes, with the bytes after it. -/
def decode (bs : List Byte) : Except DecodeError (Instr × List Byte) :=
  match decodeFrom listFetcher ⟨bs, []⟩ with
  | .ok i c => .ok (i, c.pos)
  | .bad e _ => .error e

/-! ## The encoder (R120, R122) -/

/-- One field of an encoding, as it is fetched: a byte by `Fetch8`, a word by `Fetch16` (40_cycle.md R203). -/
inductive Field where
  | byte (b : Byte)
  | word (w : Word)
deriving DecidableEq, Repr

/-- The bytes of a field, a word low byte first (30_encoding.md R132). -/
def Field.bytes : Field → List Byte
  | .byte b => [b]
  | .word w => [loByte w, hiByte w]

/-- ModRM byte and displacement of a memory operand (30_encoding.md R121, R128). -/
def fieldsMem (reg : BitVec 3) : MemForm → List Field
  | .noDisp b => [.byte (mkModRM 0 reg b.code)]
  | .direct off => [.byte (mkModRM 0 reg 6), .word off]
  | .disp8 b d => [.byte (mkModRM 1 reg b.code), .byte d]
  | .disp16 b d => [.byte (mkModRM 2 reg b.code), .word d]

/-- Opcode byte, ModRM byte and displacement (30_encoding.md R122, format `modrm`). -/
def fieldsRM (op : Byte) (reg : BitVec 3) : RM (BitVec 3) → List Field
  | .reg r => [.byte op, .byte (mkModRM 3 reg r)]
  | .mem m => .byte op :: fieldsMem reg m

/-- The fields of an instruction's encoding, in order (30_encoding.md R122, R133). -/
def encodeFields : Instr → List Field
  | .addRm8R8 e g => fieldsRM 0x00 g.code (e.map Reg8.code)
  | .addRm16R16 e g => fieldsRM 0x01 g.code (e.map Reg16.code)
  | .addR8Rm8 g e => fieldsRM 0x02 g.code (e.map Reg8.code)
  | .addR16Rm16 g e => fieldsRM 0x03 g.code (e.map Reg16.code)
  | .addAlImm8 ib => [.byte 0x04, .byte ib]
  | .addAxImm16 iw => [.byte 0x05, .word iw]
  | .addRm8Imm8 e ib => fieldsRM 0x80 0 (e.map Reg8.code) ++ [.byte ib]
  | .addRm16Imm16 e iw => fieldsRM 0x81 0 (e.map Reg16.code) ++ [.word iw]
  | .addRm16Imm8 e ib => fieldsRM 0x83 0 (e.map Reg16.code) ++ [.byte ib]
  | .orRm8R8 e g => fieldsRM 0x08 g.code (e.map Reg8.code)
  | .orRm16R16 e g => fieldsRM 0x09 g.code (e.map Reg16.code)
  | .orR8Rm8 g e => fieldsRM 0x0A g.code (e.map Reg8.code)
  | .orR16Rm16 g e => fieldsRM 0x0B g.code (e.map Reg16.code)
  | .orAlImm8 ib => [.byte 0x0C, .byte ib]
  | .orAxImm16 iw => [.byte 0x0D, .word iw]
  | .orRm8Imm8 e ib => fieldsRM 0x80 1 (e.map Reg8.code) ++ [.byte ib]
  | .orRm16Imm16 e iw => fieldsRM 0x81 1 (e.map Reg16.code) ++ [.word iw]
  | .orRm16Imm8 e ib => fieldsRM 0x83 1 (e.map Reg16.code) ++ [.byte ib]
  | .adcRm8R8 e g => fieldsRM 0x10 g.code (e.map Reg8.code)
  | .adcRm16R16 e g => fieldsRM 0x11 g.code (e.map Reg16.code)
  | .adcR8Rm8 g e => fieldsRM 0x12 g.code (e.map Reg8.code)
  | .adcR16Rm16 g e => fieldsRM 0x13 g.code (e.map Reg16.code)
  | .adcAlImm8 ib => [.byte 0x14, .byte ib]
  | .adcAxImm16 iw => [.byte 0x15, .word iw]
  | .adcRm8Imm8 e ib => fieldsRM 0x80 2 (e.map Reg8.code) ++ [.byte ib]
  | .adcRm16Imm16 e iw => fieldsRM 0x81 2 (e.map Reg16.code) ++ [.word iw]
  | .adcRm16Imm8 e ib => fieldsRM 0x83 2 (e.map Reg16.code) ++ [.byte ib]
  | .sbbRm8R8 e g => fieldsRM 0x18 g.code (e.map Reg8.code)
  | .sbbRm16R16 e g => fieldsRM 0x19 g.code (e.map Reg16.code)
  | .sbbR8Rm8 g e => fieldsRM 0x1A g.code (e.map Reg8.code)
  | .sbbR16Rm16 g e => fieldsRM 0x1B g.code (e.map Reg16.code)
  | .sbbAlImm8 ib => [.byte 0x1C, .byte ib]
  | .sbbAxImm16 iw => [.byte 0x1D, .word iw]
  | .sbbRm8Imm8 e ib => fieldsRM 0x80 3 (e.map Reg8.code) ++ [.byte ib]
  | .sbbRm16Imm16 e iw => fieldsRM 0x81 3 (e.map Reg16.code) ++ [.word iw]
  | .sbbRm16Imm8 e ib => fieldsRM 0x83 3 (e.map Reg16.code) ++ [.byte ib]
  | .andRm8R8 e g => fieldsRM 0x20 g.code (e.map Reg8.code)
  | .andRm16R16 e g => fieldsRM 0x21 g.code (e.map Reg16.code)
  | .andR8Rm8 g e => fieldsRM 0x22 g.code (e.map Reg8.code)
  | .andR16Rm16 g e => fieldsRM 0x23 g.code (e.map Reg16.code)
  | .andAlImm8 ib => [.byte 0x24, .byte ib]
  | .andAxImm16 iw => [.byte 0x25, .word iw]
  | .andRm8Imm8 e ib => fieldsRM 0x80 4 (e.map Reg8.code) ++ [.byte ib]
  | .andRm16Imm16 e iw => fieldsRM 0x81 4 (e.map Reg16.code) ++ [.word iw]
  | .andRm16Imm8 e ib => fieldsRM 0x83 4 (e.map Reg16.code) ++ [.byte ib]
  | .subRm8R8 e g => fieldsRM 0x28 g.code (e.map Reg8.code)
  | .subRm16R16 e g => fieldsRM 0x29 g.code (e.map Reg16.code)
  | .subR8Rm8 g e => fieldsRM 0x2A g.code (e.map Reg8.code)
  | .subR16Rm16 g e => fieldsRM 0x2B g.code (e.map Reg16.code)
  | .subAlImm8 ib => [.byte 0x2C, .byte ib]
  | .subAxImm16 iw => [.byte 0x2D, .word iw]
  | .subRm8Imm8 e ib => fieldsRM 0x80 5 (e.map Reg8.code) ++ [.byte ib]
  | .subRm16Imm16 e iw => fieldsRM 0x81 5 (e.map Reg16.code) ++ [.word iw]
  | .subRm16Imm8 e ib => fieldsRM 0x83 5 (e.map Reg16.code) ++ [.byte ib]
  | .xorRm8R8 e g => fieldsRM 0x30 g.code (e.map Reg8.code)
  | .xorRm16R16 e g => fieldsRM 0x31 g.code (e.map Reg16.code)
  | .xorR8Rm8 g e => fieldsRM 0x32 g.code (e.map Reg8.code)
  | .xorR16Rm16 g e => fieldsRM 0x33 g.code (e.map Reg16.code)
  | .xorAlImm8 ib => [.byte 0x34, .byte ib]
  | .xorAxImm16 iw => [.byte 0x35, .word iw]
  | .xorRm8Imm8 e ib => fieldsRM 0x80 6 (e.map Reg8.code) ++ [.byte ib]
  | .xorRm16Imm16 e iw => fieldsRM 0x81 6 (e.map Reg16.code) ++ [.word iw]
  | .xorRm16Imm8 e ib => fieldsRM 0x83 6 (e.map Reg16.code) ++ [.byte ib]
  | .cmpRm8R8 e g => fieldsRM 0x38 g.code (e.map Reg8.code)
  | .cmpRm16R16 e g => fieldsRM 0x39 g.code (e.map Reg16.code)
  | .cmpR8Rm8 g e => fieldsRM 0x3A g.code (e.map Reg8.code)
  | .cmpR16Rm16 g e => fieldsRM 0x3B g.code (e.map Reg16.code)
  | .cmpAlImm8 ib => [.byte 0x3C, .byte ib]
  | .cmpAxImm16 iw => [.byte 0x3D, .word iw]
  | .cmpRm8Imm8 e ib => fieldsRM 0x80 7 (e.map Reg8.code) ++ [.byte ib]
  | .cmpRm16Imm16 e iw => fieldsRM 0x81 7 (e.map Reg16.code) ++ [.word iw]
  | .cmpRm16Imm8 e ib => fieldsRM 0x83 7 (e.map Reg16.code) ++ [.byte ib]
  | .mulRm8 e => fieldsRM 0xF6 4 (e.map Reg8.code)
  | .mulRm16 e => fieldsRM 0xF7 4 (e.map Reg16.code)
  | .divRm16 e => fieldsRM 0xF7 6 (e.map Reg16.code)
  | .movRm8R8 e g => fieldsRM 0x88 g.code (e.map Reg8.code)
  | .movRm16R16 e g => fieldsRM 0x89 g.code (e.map Reg16.code)
  | .movR8Rm8 g e => fieldsRM 0x8A g.code (e.map Reg8.code)
  | .movR16Rm16 g e => fieldsRM 0x8B g.code (e.map Reg16.code)
  | .movRm16Sreg e sr => fieldsRM 0x8C sr.code (e.map Reg16.code)
  | .movSregRm16 sr e => fieldsRM 0x8E sr.code (e.map Reg16.code)
  | .leaR16M g m => .byte 0x8D :: fieldsMem g.code m
  | .movAlMoffs8 off => [.byte 0xA0, .word off]
  | .movAxMoffs16 off => [.byte 0xA1, .word off]
  | .movMoffs8Al off => [.byte 0xA2, .word off]
  | .movMoffs16Ax off => [.byte 0xA3, .word off]
  | .movR8Imm8 r ib => [.byte (0xB0 + r.code.setWidth 8), .byte ib]
  | .movR16Imm16 r iw => [.byte (0xB8 + r.code.setWidth 8), .word iw]
  | .movRm8Imm8 e ib => fieldsRM 0xC6 0 (e.map Reg8.code) ++ [.byte ib]
  | .movRm16Imm16 e iw => fieldsRM 0xC7 0 (e.map Reg16.code) ++ [.word iw]
  | .nop => [.byte 0x90]
  | .pushR16 r => [.byte (0x50 + r.code.setWidth 8)]
  | .popR16 r => [.byte (0x58 + r.code.setWidth 8)]
  | .pushEs => [.byte 0x06]
  | .pushCs => [.byte 0x0E]
  | .pushSs => [.byte 0x16]
  | .pushDs => [.byte 0x1E]
  | .popEs => [.byte 0x07]
  | .popSs => [.byte 0x17]
  | .popDs => [.byte 0x1F]
  | .jmpRel8 d => [.byte 0xEB, .byte d]
  | .jmpRel16 d => [.byte 0xE9, .word d]
  | .jmpFar off sel => [.byte 0xEA, .word off, .word sel]
  | .joRel8 d => [.byte 0x70, .byte d]
  | .jnoRel8 d => [.byte 0x71, .byte d]
  | .jbRel8 d => [.byte 0x72, .byte d]
  | .jnbRel8 d => [.byte 0x73, .byte d]
  | .jzRel8 d => [.byte 0x74, .byte d]
  | .jnzRel8 d => [.byte 0x75, .byte d]
  | .jbeRel8 d => [.byte 0x76, .byte d]
  | .jaRel8 d => [.byte 0x77, .byte d]
  | .jsRel8 d => [.byte 0x78, .byte d]
  | .jnsRel8 d => [.byte 0x79, .byte d]
  | .jpRel8 d => [.byte 0x7A, .byte d]
  | .jnpRel8 d => [.byte 0x7B, .byte d]
  | .jlRel8 d => [.byte 0x7C, .byte d]
  | .jgeRel8 d => [.byte 0x7D, .byte d]
  | .jleRel8 d => [.byte 0x7E, .byte d]
  | .jgRel8 d => [.byte 0x7F, .byte d]
  | .callRel16 d => [.byte 0xE8, .word d]
  | .callFar off sel => [.byte 0x9A, .word off, .word sel]
  | .ret => [.byte 0xC3]
  | .retImm16 iw => [.byte 0xC2, .word iw]
  | .retf => [.byte 0xCB]
  | .retfImm16 iw => [.byte 0xCA, .word iw]
  | .movsb => [.byte 0xA4]
  | .cmpsb => [.byte 0xA6]
  | .lodsb => [.byte 0xAC]
  | .intImm8 n => [.byte 0xCD, .byte n]
  | .clc => [.byte 0xF8]
  | .stc => [.byte 0xF9]
  | .cmc => [.byte 0xF5]
  | .cli => [.byte 0xFA]
  | .sti => [.byte 0xFB]
  | .cld => [.byte 0xFC]
  | .std => [.byte 0xFD]
  | .esOverride => [.byte 0x26]
  | .csOverride => [.byte 0x2E]
  | .ssOverride => [.byte 0x36]
  | .dsOverride => [.byte 0x3E]
  | .fsOverride => [.byte 0x64]
  | .gsOverride => [.byte 0x65]
  | .repPrefix => [.byte 0xF3]

/-- The bytes of an instruction's encoding. -/
def encode (i : Instr) : List Byte := (encodeFields i).flatMap Field.bytes

/-! ## The table's words -/

/-- The opcodes whose rows of spec/opcode_table.json have a two-byte pattern: the groups of 30_encoding.md R121. -/
def twoByteOpcode (b : Byte) : Bool :=
  b == 0x80 || b == 0x81 || b == 0x83 || b == 0xC6 || b == 0xC7 || b == 0xF6 || b == 0xF7

/-- The bytes of a word numbered as spec/opcode_table.json numbers it, padded with zeros to the longest instruction.
The first byte is bits 7:0, but in a two-byte pattern, whose match and mask are hex strings with the opcode first
(30_encoding.md R139), the opcode is bits 15:8 and the ModRM byte bits 7:0. -/
def tableWordBytes (nbits w : Nat) : List Byte :=
  let v := w % 2 ^ nbits
  let rest := (List.range 19).map fun k => BitVec.ofNat 8 (v >>> (16 + 8 * k))
  let b0 := BitVec.ofNat 8 v
  let b1 := BitVec.ofNat 8 (v >>> 8)
  if 8 < nbits && twoByteOpcode b1 then b1 :: b0 :: rest else b0 :: b1 :: rest

/-- The instruction the decoder reads from a word of spec/opcode_table.json. -/
def decodeTableWord (nbits w : Nat) : Option Instr :=
  match decode (tableWordBytes nbits w) with
  | .ok (i, _) => some i
  | .error _ => none

end Sys2Proof
end

