-- ==== Sys2Proof/Machine/Arch.lean ====
section
/-! DEFINITION. The register file, the segment file and the memory bus as plain data: what the host and the interrupt
handler may read and write (10_state.md R30, R40; 20_memory.md R80; 60_exceptions.md R505). -/

namespace Sys2Proof.Machine

/-- The nine slots of the register file, in the order of their numbers 0 to 8 (10_state.md R30, 00_scope.md R13). -/
inductive Slot where
  | ax | cx | dx | bx | sp | bp | si | di | ip
deriving DecidableEq, Repr

/-- The register file: one 32-bit storage cell per slot; the narrower views are computed from it (10_state.md R30). -/
structure RegFile where
  ax : DWord
  cx : DWord
  dx : DWord
  bx : DWord
  sp : DWord
  bp : DWord
  si : DWord
  di : DWord
  ip : DWord
deriving DecidableEq, Repr, Inhabited

/-- A segment register: the selector and its cached linear base (10_state.md R40). -/
structure SegEntry where
  sel : Word
  base : Addr
deriving DecidableEq, Repr, Inhabited

/-- The segment file (10_state.md R40). -/
structure SegFile where
  es : SegEntry
  cs : SegEntry
  ss : SegEntry
  ds : SegEntry
  fs : SegEntry
  gs : SegEntry
deriving DecidableEq, Repr, Inhabited

/-- The six selectors alone: what a writer of the segment file may choose, since the base cache has no write path of
its own (10_state.md R42). -/
structure Selectors where
  es : Word
  cs : Word
  ss : Word
  ds : Word
  fs : Word
  gs : Word
deriving DecidableEq, Repr, Inhabited

/-- Bytes at linear addresses (20_memory.md R80), addresses strictly rising, no entry equal to what an unlisted address
reads as (`Memory.wf` in Machine/Ops.lean). -/
abbrev Memory := List (Nat × Byte)

/-- One operation on the memory bus (20_memory.md R80): one bus transaction each (R82, R83). -/
inductive BusOp where
  | readByte (a : Addr)
  | readWord (a : Addr)
  | writeByte (a : Addr) (v : Byte)
  | writeWord (a : Addr) (v : Word)
deriving DecidableEq, Repr

/-- The addresses `first` to `last` at which the platform substitutes a device for plain memory (20_memory.md R80). -/
structure Window where
  first : Addr
  last : Addr
deriving DecidableEq, Repr

/-- MEM, the bus with everything behind it (00_scope.md R6, 20_memory.md R80): plain memory, the windows at which the
platform substitutes devices, and the operations the devices have seen so far, oldest first. What a device answers is a
free value of Config, a function of that history. With no window this is the default of R80. notes/assumptions/2.md. -/
structure Bus where
  ram : Memory
  devices : List Window
  log : List BusOp
deriving DecidableEq, Repr

end Sys2Proof.Machine
end

