-- ==== Sys2Proof/Config.lean ====
section
/-! DEFINITION. What the implementation fixes, and the values the spec leaves open. -/

namespace Sys2Proof

open Sys2Proof.Machine

/-- PREFIX_LIMIT: the most prefix bytes an instruction may have (00_scope.md R6, 30_encoding.md R130, D15). -/
def Config.prefixLimit : Nat := 15

/-- What a byte of plain memory reads as when the list of `Bus.ram` does not list it. DESIGN CHOICE, unsafe
(notes/assumptions/1.md): the spec leaves the content of MEM open (U10), and its test vectors take 0. Every content is
some list (`Memory.exists_of_content` in Laws/Memory.lean), so the content is an argument of `step` all the same. -/
def Config.unlistedByte : Byte := 0

/-- What one call of the interrupt handler did before it returned: the value of every register, selector and flag it
leaves, and its operations on the bus, in order (60_exceptions.md R504, R505). -/
structure HandlerEffect where
  regs : RegFile
  sels : Selectors
  flags : DWord
  traffic : List BusOp
deriving DecidableEq, Repr, Inhabited

/-- MEM at a device, part of the OPEN parameter of 20_memory.md R80: the byte `readByte a` answers after the operations
`log`. A free value: nothing in Lean knows it. The whole history stands for the devices' own state, so that a read may
have side effects and need not return what was written. notes/assumptions/2.md. -/
opaque Config.deviceByte (log : List BusOp) (a : Addr) : Byte

/-- MEM at a device: the word `readWord a` answers after the operations `log` (20_memory.md R80). -/
opaque Config.deviceWord (log : List BusOp) (a : Addr) : Word

/-- HANDLER, the OPEN parameter of 60_exceptions.md R505: what the handler does when interrupt `n` is signalled in a
state with these registers, segments, flags and memory. A free value: nothing in Lean knows it. The first argument
counts the calls, so that two calls in equal states may differ (the spec's HANDLER is a relation).
notes/assumptions/3.md. -/
opaque Config.handler (draw : Nat) (n : Byte) (regs : RegFile) (segs : SegFile) (flags : DWord) (bus : Bus) :
    HandlerEffect

end Sys2Proof
end

