-- ==== Sys2Proof/Machine/State.lean ====
section
/-! DEFINITION. Everything the spec gives the machine, as plain data (10_state.md), the reasons a step can stop, and
the state after reset (70_reset_and_hazards.md R550, R551). -/

namespace Sys2Proof.Machine

/-- What an IllegalOpcode fault records: CS and IP of the first byte, and the bytes fetched up to the failure
(40_cycle.md R202, 60_exceptions.md R501). -/
structure IllegalOpcode where
  cs : Word
  ip : Word
  bytes : List Byte
deriving DecidableEq, Repr

/-- The outcome of a Cycle, as its trace record reports it (40_cycle.md R208, R209). -/
inductive Event where
  | retired
  | interrupt (n : Byte)
  | faulted (f : IllegalOpcode)
deriving DecidableEq, Repr

/-- A decoded operand (40_cycle.md R206). -/
inductive Operand where
  | reg8 (c : Reg8)
  | reg16 (c : Reg16)
  | seg (r : SegReg)
  | mem (off : Word)
  | imm (v : Word)
deriving DecidableEq, Repr

/-- The trace record of one Cycle (40_cycle.md R208). The text format is out of scope; the content is here. -/
structure TraceRecord where
  cs : Word
  ip : Word
  bytes : List Byte
  instr : Option Instr
  operands : List Operand
  event : Event
deriving DecidableEq, Repr

/-- The width of a host access to the register file (40_cycle.md R230). -/
inductive ViewWidth where
  | low8 | high8 | word16 | full32
deriving DecidableEq, Repr

/-- Why the machine stops with a fault. -/
inductive Fault where
  /-- IllegalOpcode: the Cycle failed to decode, or was requested while the fault latch is set. Raised by `step` alone
  (40_cycle.md R209, 60_exceptions.md R501, 10_state.md R55). Safe: the spec says the machine executes nothing more until
  reset. The state such a Cycle leaves, with FAULT latched, is in `cycle`. -/
  | illegalOpcode (info : IllegalOpcode)
deriving DecidableEq, Repr

/-- Why a request is refused. -/
inductive Refusal where
  /-- The instruction has no meaning in this model yet. Raised by `exec` alone. Safe. -/
  | notModelled (mnemonic : String)
  /-- The host requested a Cycle while the interrupt handler runs. Raised by `step` alone (60_exceptions.md R506, U9:
  "A model treats such a request as refused"). Safe. -/
  | cycleInHandler
  /-- InvalidOperand: the host asked for the 8-high view of a slot other than 0 to 3. Raised by the host's register
  accessor alone (60_exceptions.md R503, U6). Safe. -/
  | invalidOperand (slot : Slot) (width : ViewWidth)
deriving DecidableEq, Repr

/-- The state of the machine. -/
structure State where
  /-- The register file (10_state.md R30). -/
  regs : RegFile
  /-- The segment file with its base cache (10_state.md R40). -/
  segs : SegFile
  /-- The flags register (10_state.md R46, R47). -/
  flags : DWord
  /-- MEM: the bus and what stands behind it (20_memory.md R80, R84). -/
  bus : Bus
  /-- ADS, the active data segment (10_state.md R51). -/
  ads : SegReg
  /-- OVR, an override prefix was read (10_state.md R52). -/
  ovr : Bool
  /-- REP, the repeat prefix was read (10_state.md R53). -/
  rep : Bool
  /-- FAULT, the fault latch (10_state.md R55). -/
  fault : Option IllegalOpcode
  /-- INH, the interrupt handler runs (10_state.md R56). -/
  inh : Bool
  /-- TRACE: the record the last Cycle emitted (40_cycle.md R208). An output, read by no instruction. -/
  trace : Option TraceRecord
  /-- The model's own: the event `ev` of the Cycle under way, the interrupt signalled in it (40_cycle.md R202);
  notes/assumptions/8.md. -/
  signal : Option Byte
  /-- The model's own: handler calls so far, the free value's counter; notes/assumptions/4.md. -/
  draws : Nat
deriving DecidableEq, Repr

/-- A segment register after reset: selector 0, base 0 (10_state.md R58). -/
def SegEntry.reset : SegEntry := { sel := 0, base := 0 }

/-- The machine right after reset (10_state.md R58, 70_reset_and_hazards.md R550, R551) on the default MEM of R80: plain
memory that lists nothing (reset does not touch memory, and the spec leaves its content open) and no device.
`State.onBus` in Machine/Access.lean puts any other MEM in its place. -/
def State.reset : State where
  regs := { ax := 0, cx := 0, dx := 0, bx := 0, sp := 0, bp := 0, si := 0, di := 0, ip := 0 }
  segs := { es := .reset, cs := .reset, ss := .reset, ds := .reset, fs := .reset, gs := .reset }
  flags := 0x00000240
  bus := { ram := [], devices := [], log := [] }
  ads := .ds
  ovr := false
  rep := false
  fault := none
  inh := false
  trace := none
  signal := none
  draws := 0

end Sys2Proof.Machine
end

