-- ==== Sys2Proof/Machine/Ops.lean ====
section
/-! DEFINITION. The named operations over registers, segments, memory, the stack and the per-instruction state, and the
interrupt dispatcher. -/

namespace Sys2Proof.Machine

/-! ## Register file (10_state.md R30 to R33) -/

/-- The 32-bit storage S[n] of a slot (R30); also the view `R32[n]` (R31). -/
def RegFile.get (r : RegFile) : Slot → DWord
  | .ax => r.ax
  | .cx => r.cx
  | .dx => r.dx
  | .bx => r.bx
  | .sp => r.sp
  | .bp => r.bp
  | .si => r.si
  | .di => r.di
  | .ip => r.ip

/-- Write the whole storage of a slot (R31, `R32[n]`). -/
def RegFile.set (r : RegFile) (n : Slot) (v : DWord) : RegFile :=
  match n with
  | .ax => { r with ax := v }
  | .cx => { r with cx := v }
  | .dx => { r with dx := v }
  | .bx => { r with bx := v }
  | .sp => { r with sp := v }
  | .bp => { r with bp := v }
  | .si => { r with si := v }
  | .di => { r with di := v }
  | .ip => { r with ip := v }

/-- `R16[n]`, bits 15:0 (R31). -/
def RegFile.r16 (r : RegFile) (n : Slot) : Word := (r.get n).extractLsb' 0 16

/-- `R8L[n]`, bits 7:0 (R31). -/
def RegFile.r8l (r : RegFile) (n : Slot) : Byte := (r.get n).extractLsb' 0 8

/-- `R8H[n]`, bits 15:8 (R31); the core and the host use it for slots 0 to 3 only (R32). -/
def RegFile.r8h (r : RegFile) (n : Slot) : Byte := (r.get n).extractLsb' 8 8

/-- Write `R16[n]`: bits 31:16 are kept (R31). -/
def RegFile.setR16 (r : RegFile) (n : Slot) (v : Word) : RegFile :=
  r.set n ((r.get n).extractLsb' 16 16 ++ v)

/-- Write `R8L[n]`: bits 31:8 are kept (R31). -/
def RegFile.setR8L (r : RegFile) (n : Slot) (v : Byte) : RegFile :=
  r.set n ((r.get n).extractLsb' 8 24 ++ v)

/-- Write `R8H[n]`: bits 31:16 and 7:0 are kept (R31). -/
def RegFile.setR8H (r : RegFile) (n : Slot) (v : Byte) : RegFile :=
  r.set n ((r.get n).extractLsb' 16 16 ++ v ++ (r.get n).extractLsb' 0 8)

/-- The slots whose high-byte view exists: 0 to 3 (R32). -/
def Slot.hasHigh : Slot → Bool
  | .ax => true
  | .cx => true
  | .dx => true
  | .bx => true
  | .sp => false
  | .bp => false
  | .si => false
  | .di => false
  | .ip => false

end Sys2Proof.Machine

namespace Sys2Proof

open Sys2Proof.Machine

/-- The slot of a word register code (30_encoding.md R126). -/
def Reg16.slot : Reg16 → Slot
  | .ax => .ax
  | .cx => .cx
  | .dx => .dx
  | .bx => .bx
  | .sp => .sp
  | .bp => .bp
  | .si => .si
  | .di => .di

/-- The slot a byte register code lies in (30_encoding.md R126). -/
def Reg8.slot : Reg8 → Slot
  | .al => .ax
  | .cl => .cx
  | .dl => .dx
  | .bl => .bx
  | .ah => .ax
  | .ch => .cx
  | .dh => .dx
  | .bh => .bx

/-- Byte codes 4 to 7 are the high views (30_encoding.md R126). -/
def Reg8.isHigh : Reg8 → Bool
  | .al => false
  | .cl => false
  | .dl => false
  | .bl => false
  | .ah => true
  | .ch => true
  | .dh => true
  | .bh => true

end Sys2Proof

namespace Sys2Proof.Machine

/-- `reg8(c)` (30_encoding.md R126). -/
def RegFile.get8 (r : RegFile) (c : Reg8) : Byte := if c.isHigh then r.r8h c.slot else r.r8l c.slot

/-- Write `reg8(c)`. -/
def RegFile.set8 (r : RegFile) (c : Reg8) (v : Byte) : RegFile :=
  if c.isHigh then r.setR8H c.slot v else r.setR8L c.slot v

/-- `reg16(c)` (30_encoding.md R126). -/
def RegFile.get16 (r : RegFile) (c : Reg16) : Word := r.r16 c.slot

/-- Write `reg16(c)`. -/
def RegFile.set16 (r : RegFile) (c : Reg16) (v : Word) : RegFile := r.setR16 c.slot v

/-- `reg8(c)` of the state. -/
def State.get8 (s : State) (c : Reg8) : Byte := s.regs.get8 c

/-- `reg8(c) <- v`. -/
def State.set8 (s : State) (c : Reg8) (v : Byte) : State := { s with regs := s.regs.set8 c v }

/-- `reg16(c)` of the state. -/
def State.get16 (s : State) (c : Reg16) : Word := s.regs.get16 c

/-- `reg16(c) <- v`. -/
def State.set16 (s : State) (c : Reg16) (v : Word) : State := { s with regs := s.regs.set16 c v }

/-- IP, the 16-bit view of slot 8 (10_state.md R33). -/
def State.ip (s : State) : Word := s.regs.r16 .ip

/-- `IP <- v`, a 16-bit write: bits 31:16 of slot 8 are kept (10_state.md R33). -/
def State.setIp (s : State) (v : Word) : State := { s with regs := s.regs.setR16 .ip v }

/-! ## Segment file (10_state.md R40 to R43) -/

/-- A segment register of the file. -/
def SegFile.get (f : SegFile) : SegReg → SegEntry
  | .es => f.es
  | .cs => f.cs
  | .ss => f.ss
  | .ds => f.ds
  | .fs => f.fs
  | .gs => f.gs

/-- Replace a segment register of the file. -/
def SegFile.set (f : SegFile) (r : SegReg) (e : SegEntry) : SegFile :=
  match r with
  | .es => { f with es := e }
  | .cs => { f with cs := e }
  | .ss => { f with ss := e }
  | .ds => { f with ds := e }
  | .fs => { f with fs := e }
  | .gs => { f with gs := e }

/-- The segment register a selector write leaves: the base is `zext_32(sel) << 4` (10_state.md R41). -/
def SegEntry.load (sel : Word) : SegEntry := { sel := sel, base := sel.setWidth 32 <<< 4 }

/-- The segment file six selector writes leave (10_state.md R41, R42). -/
def SegFile.load (v : Selectors) : SegFile where
  es := .load v.es
  cs := .load v.cs
  ss := .load v.ss
  ds := .load v.ds
  fs := .load v.fs
  gs := .load v.gs

/-- `SEG[r] <- v`: selector and base as one update (10_state.md R41). -/
def State.loadSeg (s : State) (r : SegReg) (v : Word) : State := { s with segs := s.segs.set r (.load v) }

/-- `SegAddr(r, off) = SEG[r].base + zext_32(off)`, not reduced mod 2^20 (20_memory.md R85). -/
def State.segAddr (s : State) (r : SegReg) (off : Word) : Addr := (s.segs.get r).base + off.setWidth 32

/-! ## Plain memory (20_memory.md R80 to R88) -/

/-- The byte at an address; an unlisted address reads as `Config.unlistedByte`. -/
def Memory.get : Memory → Nat → Byte
  | [], _ => Config.unlistedByte
  | (k, b) :: m, a => if a = k then b else Memory.get m a

/-- Write a byte and keep the canonical form: writing what an unlisted address reads as removes the entry. -/
def Memory.set : Memory → Nat → Byte → Memory
  | [], a, v => if v = Config.unlistedByte then [] else [(a, v)]
  | (k, b) :: m, a, v =>
    if a < k then (if v = Config.unlistedByte then (k, b) :: m else (a, v) :: (k, b) :: m)
    else if a = k then (if v = Config.unlistedByte then m else (a, v) :: m)
    else (k, b) :: Memory.set m a v

/-- The canonical form: addresses strictly rising and below 2^32 (R80: 32-bit addresses), no entry equal to what an
unlisted address reads as. -/
abbrev Memory.wf (m : Memory) : Prop :=
  m.Pairwise (fun x y => x.1 < y.1) ∧ ∀ c ∈ m, c.1 < 2 ^ 32 ∧ c.2 ≠ Config.unlistedByte

/-- `readByte(addr)` on plain memory (R80). -/
def Memory.readByte (m : Memory) (a : Addr) : Byte := Memory.get m a.toNat

/-- `readWord(addr)` on plain memory: little-endian; the second address is computed in 32 bits (R84). -/
def Memory.readWord (m : Memory) (a : Addr) : Word := wordOf (Memory.readByte m a) (Memory.readByte m (a + 1))

/-- `writeByte(addr, v)` on plain memory (R80). -/
def Memory.writeByte (m : Memory) (a : Addr) (v : Byte) : Memory := Memory.set m a.toNat v

/-- `writeWord(addr, v)` on plain memory: the low byte at the lower address (R84). -/
def Memory.writeWord (m : Memory) (a : Addr) (v : Word) : Memory :=
  Memory.writeByte (Memory.writeByte m a (loByte v)) (a + 1) (hiByte v)

/-! ## The bus (20_memory.md R80, R82, R83) -/

/-- The bytes an operation is about: one, or two consecutive ones (R84, R86). -/
def BusOp.addrs : BusOp → List Addr
  | .readByte a => [a]
  | .readWord a => [a, a + 1]
  | .writeByte a _ => [a]
  | .writeWord a _ => [a, a + 1]

/-- The address lies in the window. -/
def Window.holds (w : Window) (a : Addr) : Bool := w.first.toNat ≤ a.toNat && a.toNat ≤ w.last.toNat

/-- A device stands at the address (R80). -/
def Bus.isDevice (b : Bus) (a : Addr) : Bool := b.devices.any fun w => w.holds a

/-- The operation reaches a device. A word operation is one transaction (R83, R86): it goes to the device whole when a
device stands at either byte (notes/assumptions/2.md). -/
def Bus.atDevice (b : Bus) (op : BusOp) : Bool := op.addrs.any b.isDevice

/-- What the bus answers to `readByte a`. -/
def Bus.readByte (b : Bus) (a : Addr) : Byte :=
  if b.atDevice (.readByte a) then Config.deviceByte b.log a else Memory.readByte b.ram a

/-- What the bus answers to `readWord a`. -/
def Bus.readWord (b : Bus) (a : Addr) : Word :=
  if b.atDevice (.readWord a) then Config.deviceWord b.log a else Memory.readWord b.ram a

/-- What an operation does to plain memory: a read has no side effect (R80, R89). -/
def Memory.after (m : Memory) : BusOp → Memory
  | .readByte _ => m
  | .readWord _ => m
  | .writeByte a v => Memory.writeByte m a v
  | .writeWord a v => Memory.writeWord m a v

/-- The bus after an operation, read or write: at a device the device has seen it, else plain memory has (R80). -/
def Bus.after (b : Bus) (op : BusOp) : Bus :=
  if b.atDevice op then { b with log := b.log ++ [op] } else { b with ram := Memory.after b.ram op }

/-- The bus after operations in order (R89). -/
def Bus.run (b : Bus) (ops : List BusOp) : Bus := ops.foldl Bus.after b

/-- The value of `MemRead(addr, 1)` (R82). -/
def State.readByte (s : State) (a : Addr) : Byte := s.bus.readByte a

/-- The state `MemRead(addr, 1)` leaves: at a device a read may have side effects (R82, R89). -/
def State.sawByte (s : State) (a : Addr) : State := { s with bus := s.bus.after (.readByte a) }

/-- The value of `MemRead(addr, 2)` (R82). -/
def State.readWord (s : State) (a : Addr) : Word := s.bus.readWord a

/-- The state `MemRead(addr, 2)` leaves (R82, R89). -/
def State.sawWord (s : State) (a : Addr) : State := { s with bus := s.bus.after (.readWord a) }

/-- `MemWrite(addr, 1, v)` (R83). -/
def State.writeByte (s : State) (a : Addr) (v : Byte) : State := { s with bus := s.bus.after (.writeByte a v) }

/-- `MemWrite(addr, 2, v)` (R83). -/
def State.writeWord (s : State) (a : Addr) (v : Word) : State := { s with bus := s.bus.after (.writeWord a v) }

/-! ## Stack (44_stack.md R360, R361) -/

/-- `Push16(v)`: SP - 2 mod 2^16, then the word at SS:SP (R360). -/
def State.push16 (s : State) (v : Word) : State :=
  let sp := s.get16 .sp - 2
  (s.set16 .sp sp).writeWord (s.segAddr .ss sp) v

/-- The word `Pop16()` returns: the one at SS:SP (R361). -/
def State.stackTop (s : State) : Word := s.readWord (s.segAddr .ss (s.get16 .sp))

/-- The state `Pop16()` leaves: the word read, SP + 2 mod 2^16 (R361). -/
def State.pop16 (s : State) : State := (s.sawWord (s.segAddr .ss (s.get16 .sp))).set16 .sp (s.get16 .sp + 2)

/-! ## Per-instruction state (10_state.md R51 to R54) -/

/-- What a segment-override prefix does (30_encoding.md R130). -/
def State.overrideSeg (s : State) (r : SegReg) : State := { s with ads := r, ovr := true }

/-- What the repeat prefix does (30_encoding.md R130). -/
def State.setRep (s : State) : State := { s with rep := true }

/-! ## Control transfer (45_control.md R390) -/

/-- `IP <- (next + rel) mod 2^16`; IP holds `next` when the execute phase begins (40_cycle.md R204). -/
def State.jumpRel (s : State) (rel : Word) : State := s.setIp (s.ip + rel)

/-- `SEG[CS] <- sel`, then `IP <- off` (45_control.md R390, R393). -/
def State.jumpFar (s : State) (off sel : Word) : State := (s.loadSeg .cs sel).setIp off

/-! ## The interrupt dispatcher (60_exceptions.md R504 to R506) -/

/-- What the handler's writes make of the state: registers, segments, flags and memory, nothing else (R505). Segments
are written through their selectors, so the base is recomputed (10_state.md R42); memory through the bus. -/
def State.applyHandler (s : State) (e : HandlerEffect) : State :=
  { s with
    regs := e.regs
    segs := .load e.sels
    flags := e.flags
    bus := s.bus.run e.traffic }

/-- `signal Interrupt(n)`: INH is true while the handler runs, the core itself saves and changes nothing, and the
state the handler leaves is the state the Cycle goes on from (R504). The return from the handler restores nothing
(R506). `signal` records the event for the trace. -/
def signalInterrupt (n : Byte) (s : State) : State :=
  let entry := { s with inh := true }
  let left := entry.applyHandler (Config.handler entry.draws n entry.regs entry.segs entry.flags entry.bus)
  { left with inh := false, signal := some n, draws := s.draws + 1 }

end Sys2Proof.Machine
end

