-- ==== Sys2Proof/Machine/Flags.lean ====
section
/-! DEFINITION. The flags register with named accessors (10_state.md R46 to R48) and the ALU primitives with their
flags (41_alu.md R250 to R254). -/

namespace Sys2Proof.Machine

/-- The named one-bit flags (10_state.md R47). -/
inductive Flag where
  | CF | PF | AF | ZF | SF | TF | IF | DF | OF | NT | RF | VM | AC | VIF | VIP | ID
deriving DecidableEq, Repr

/-- The bit position of a flag (10_state.md R47). -/
def Flag.bit : Flag → Nat
  | .CF => 0
  | .PF => 2
  | .AF => 4
  | .ZF => 6
  | .SF => 7
  | .TF => 8
  | .IF => 9
  | .DF => 10
  | .OF => 11
  | .NT => 14
  | .RF => 16
  | .VM => 17
  | .AC => 18
  | .VIF => 19
  | .VIP => 20
  | .ID => 21

/-- Write one bit of the flags register; every other bit is kept (10_state.md R46). -/
def setBit (f : DWord) (n : Nat) (b : Bool) : DWord :=
  if b then f ||| (1#32 <<< n) else f &&& ~~~(1#32 <<< n)

/-- `FLAGS.X` (00_scope.md R8). -/
def State.flag (s : State) (x : Flag) : Bool := s.flags.getLsbD x.bit

/-- `FLAGS.X <- b`. -/
def State.setFlag (s : State) (x : Flag) (b : Bool) : State := { s with flags := setBit s.flags x.bit b }

/-- The six status flags an ALU primitive returns (41_alu.md R252 to R254). -/
structure StatusFlags where
  cf : Bool
  pf : Bool
  af : Bool
  zf : Bool
  sf : Bool
  ovf : Bool   -- OF
deriving DecidableEq, Repr

/-- `FLAGS.(CF,PF,AF,ZF,SF,OF) <- fl` (41_alu.md R256). -/
def State.setStatus (s : State) (fl : StatusFlags) : State :=
  (((((s.setFlag .CF fl.cf).setFlag .PF fl.pf).setFlag .AF fl.af).setFlag .ZF fl.zf).setFlag .SF fl.sf).setFlag
    .OF fl.ovf

/-- How many of bits 7:0 are set (41_alu.md R251). -/
def popcount8 (b : Byte) : Nat := ((List.range 8).map fun i => (b.getLsbD i).toNat).sum

/-- PF: the popcount of bits 7:0 is even, at both widths (41_alu.md R251). -/
def parityEven {w : Nat} (res : BitVec w) : Bool := popcount8 (res.setWidth 8) % 2 == 0

/-- AF: bit 4 of `dst XOR src XOR res` (41_alu.md R252, R253). -/
def auxCarry {w : Nat} (dst src res : BitVec w) : Bool := (dst ^^^ src ^^^ res).getLsbD 4

/-- `AddC(w, dst, src, cin)` (41_alu.md R252). -/
def addC {w : Nat} (dst src : BitVec w) (cin : Bool) : BitVec w × StatusFlags :=
  let t := dst.toNat + src.toNat + cin.toNat
  let res := BitVec.ofNat w t
  let st : Int := dst.toInt + src.toInt + cin.toNat
  (res,
    { cf := decide (t > 2 ^ w - 1)
      pf := parityEven res
      af := auxCarry dst src res
      zf := res == 0
      sf := res.msb
      ovf := !decide (-2 ^ (w - 1) ≤ st ∧ st ≤ 2 ^ (w - 1) - 1) })

/-- `SubB(w, dst, src, bin)`; CF by the borrow reading (41_alu.md R253, 90_conflicts.md C1). -/
def subB {w : Nat} (dst src : BitVec w) (bin : Bool) : BitVec w × StatusFlags :=
  let t : Int := dst.toNat - src.toNat - bin.toNat
  let res := BitVec.ofInt w t
  (res,
    { cf := decide (dst.toNat < src.toNat + bin.toNat)
      pf := parityEven res
      af := auxCarry dst src res
      zf := res == 0
      sf := res.msb
      ovf := (dst.msb != src.msb) && (res.msb != dst.msb) })

/-- A bitwise result with `Logic(w, res)` (41_alu.md R254). -/
def logicRes {w : Nat} (res : BitVec w) : BitVec w × StatusFlags :=
  (res, { cf := false, pf := parityEven res, af := false, zf := res == 0, sf := res.msb, ovf := false })

end Sys2Proof.Machine

namespace Sys2Proof

open Sys2Proof.Machine

/-- `Prim_op(w, a, b)`: a is the destination's value, b the source's, `cf` the carry flag before (41_alu.md R256, R260 to
R267). -/
def AluOp.prim {w : Nat} (op : AluOp) (cf : Bool) (a b : BitVec w) : BitVec w × StatusFlags :=
  match op with
  | .add => addC a b false
  | .or => logicRes (a ||| b)
  | .adc => addC a b cf
  | .sbb => subB a b cf
  | .and => logicRes (a &&& b)
  | .sub => subB a b false
  | .xor => logicRes (a ^^^ b)
  | .cmp => subB a b false

/-- Every operation but CMP writes its destination (41_alu.md R256). -/
def AluOp.writes : AluOp → Bool
  | .add => true
  | .or => true
  | .adc => true
  | .sbb => true
  | .and => true
  | .sub => true
  | .xor => true
  | .cmp => false

end Sys2Proof

namespace Sys2Proof.Machine

/-- The condition of a conditional jump, on the flags before (45_control.md R394). -/
def State.cond (s : State) : Cond → Bool
  | .o => s.flag .OF
  | .no => !s.flag .OF
  | .b => s.flag .CF
  | .nb => !s.flag .CF
  | .z => s.flag .ZF
  | .nz => !s.flag .ZF
  | .be => s.flag .CF || s.flag .ZF
  | .a => !s.flag .CF && !s.flag .ZF
  | .s => s.flag .SF
  | .ns => !s.flag .SF
  | .p => s.flag .PF
  | .np => !s.flag .PF
  | .l => s.flag .SF != s.flag .OF
  | .ge => s.flag .SF == s.flag .OF
  | .le => s.flag .ZF || s.flag .SF != s.flag .OF
  | .g => !s.flag .ZF && s.flag .SF == s.flag .OF

end Sys2Proof.Machine
end

