-- ==== Sys2Proof/Machine/Operands.lean ====
section
/-! DEFINITION. Operands: effective addresses with the implicit-SS rule (30_encoding.md R127 to R129), reading and
writing an operand (40_cycle.md R206), and the operand list of the trace record (R208). -/

namespace Sys2Proof

open Sys2Proof.Machine

/-- The base of an effective address, mod 2^16 (30_encoding.md R128). -/
def Base.value (b : Base) (r : RegFile) : Word :=
  match b with
  | .bxsi => r.r16 .bx + r.r16 .si
  | .bxdi => r.r16 .bx + r.r16 .di
  | .bpsi => r.r16 .bp + r.r16 .si
  | .bpdi => r.r16 .bp + r.r16 .di
  | .si => r.r16 .si
  | .di => r.r16 .di
  | .bp => r.r16 .bp
  | .bx => r.r16 .bx

/-- The bases that select SS when no override is present: BP+SI, BP+DI and BP (30_encoding.md R129). -/
def Base.selectsSS : Base → Bool
  | .bxsi => false
  | .bxdi => false
  | .bpsi => true
  | .bpdi => true
  | .si => false
  | .di => false
  | .bp => true
  | .bx => false

/-- The offset of a memory operand, mod 2^16 (30_encoding.md R127): disp8 is sign-extended, disp16 added as it is. -/
def MemForm.offset (m : MemForm) (r : RegFile) : Word :=
  match m with
  | .noDisp b => b.value r
  | .direct off => off
  | .disp8 b d => b.value r + sext16 d
  | .disp16 b d => b.value r + d

/-- Whether the form selects SS when no override is present (30_encoding.md R129); direct addressing does not. -/
def MemForm.selectsSS : MemForm → Bool
  | .noDisp b => b.selectsSS
  | .direct _ => false
  | .disp8 b _ => b.selectsSS
  | .disp16 b _ => b.selectsSS

end Sys2Proof

namespace Sys2Proof.Machine

/-- The segment a memory operand is addressed through: SS for a BP-based form without an override, else ADS
(30_encoding.md R129, 20_memory.md R92). -/
def State.memSeg (s : State) (m : MemForm) : SegReg := if m.selectsSS && !s.ovr then .ss else s.ads

/-- What decoding a memory operand does to ADS (30_encoding.md R129); OVR is not set. -/
def State.useMem (s : State) (m : MemForm) : State := { s with ads := s.memSeg m }

/-- What decoding a ModRM operand does to ADS. -/
def State.useRM {R : Type} (s : State) : RM R → State
  | .reg _ => s
  | .mem m => s.useMem m

/-- A decoded ModRM operand: a register, or an offset in the segment ADS (30_encoding.md R127, 40_cycle.md R206). -/
inductive Loc (R : Type) where
  | reg (r : R)
  | mem (off : Word)
deriving DecidableEq, Repr

/-- The decoded operand: the offset is fixed before the instruction executes (70_reset_and_hazards.md R555). -/
def State.loc {R : Type} (s : State) : RM R → Loc R
  | .reg r => .reg r
  | .mem m => .mem (m.offset s.regs)

/-- The value of `ReadOp` of a byte operand (40_cycle.md R206). -/
def State.read8 (s : State) : Loc Reg8 → Byte
  | .reg r => s.get8 r
  | .mem off => s.readByte (s.segAddr s.ads off)

/-- The state `ReadOp` of a byte operand leaves: one bus read for a memory operand (40_cycle.md R206). -/
def State.saw8 (s : State) : Loc Reg8 → State
  | .reg _ => s
  | .mem off => s.sawByte (s.segAddr s.ads off)

/-- `WriteOp` of a byte operand (40_cycle.md R206). -/
def State.write8 (s : State) (l : Loc Reg8) (v : Byte) : State :=
  match l with
  | .reg r => s.set8 r v
  | .mem off => s.writeByte (s.segAddr s.ads off) v

/-- The value of `ReadOp` of a word operand (40_cycle.md R206). -/
def State.read16 (s : State) : Loc Reg16 → Word
  | .reg r => s.get16 r
  | .mem off => s.readWord (s.segAddr s.ads off)

/-- The state `ReadOp` of a word operand leaves: one bus read for a memory operand (40_cycle.md R206). -/
def State.saw16 (s : State) : Loc Reg16 → State
  | .reg _ => s
  | .mem off => s.sawWord (s.segAddr s.ads off)

/-- `WriteOp` of a word operand (40_cycle.md R206). -/
def State.write16 (s : State) (l : Loc Reg16) (v : Word) : State :=
  match l with
  | .reg r => s.set16 r v
  | .mem off => s.writeWord (s.segAddr s.ads off) v

end Sys2Proof.Machine

namespace Sys2Proof

open Sys2Proof.Machine

/-- A byte ModRM operand as the trace record shows it (40_cycle.md R206, R208). -/
def RM.operand8 (e : RM Reg8) (s : State) : Operand :=
  match e with
  | .reg r => .reg8 r
  | .mem m => .mem (m.offset s.regs)

/-- A word ModRM operand as the trace record shows it (40_cycle.md R206, R208). -/
def RM.operand16 (e : RM Reg16) (s : State) : Operand :=
  match e with
  | .reg r => .reg16 r
  | .mem m => .mem (m.offset s.regs)

/-- The decoded operands of an instruction, for its trace record: those its row names, destination first, memory
operands by their offset, immediates after extension (40_cycle.md R202, R206, R208). -/
def Instr.operands (i : Instr) (s : State) : List Operand :=
  match i with
  | .addRm8R8 e g => [e.operand8 s, .reg8 g]
  | .addRm16R16 e g => [e.operand16 s, .reg16 g]
  | .addR8Rm8 g e => [.reg8 g, e.operand8 s]
  | .addR16Rm16 g e => [.reg16 g, e.operand16 s]
  | .addAlImm8 ib => [.reg8 .al, .imm (ib.setWidth 16)]
  | .addAxImm16 iw => [.reg16 .ax, .imm iw]
  | .addRm8Imm8 e ib => [e.operand8 s, .imm (ib.setWidth 16)]
  | .addRm16Imm16 e iw => [e.operand16 s, .imm iw]
  | .addRm16Imm8 e ib => [e.operand16 s, .imm (sext16 ib)]
  | .orRm8R8 e g => [e.operand8 s, .reg8 g]
  | .orRm16R16 e g => [e.operand16 s, .reg16 g]
  | .orR8Rm8 g e => [.reg8 g, e.operand8 s]
  | .orR16Rm16 g e => [.reg16 g, e.operand16 s]
  | .orAlImm8 ib => [.reg8 .al, .imm (ib.setWidth 16)]
  | .orAxImm16 iw => [.reg16 .ax, .imm iw]
  | .orRm8Imm8 e ib => [e.operand8 s, .imm (ib.setWidth 16)]
  | .orRm16Imm16 e iw => [e.operand16 s, .imm iw]
  | .orRm16Imm8 e ib => [e.operand16 s, .imm (sext16 ib)]
  | .adcRm8R8 e g => [e.operand8 s, .reg8 g]
  | .adcRm16R16 e g => [e.operand16 s, .reg16 g]
  | .adcR8Rm8 g e => [.reg8 g, e.operand8 s]
  | .adcR16Rm16 g e => [.reg16 g, e.operand16 s]
  | .adcAlImm8 ib => [.reg8 .al, .imm (ib.setWidth 16)]
  | .adcAxImm16 iw => [.reg16 .ax, .imm iw]
  | .adcRm8Imm8 e ib => [e.operand8 s, .imm (ib.setWidth 16)]
  | .adcRm16Imm16 e iw => [e.operand16 s, .imm iw]
  | .adcRm16Imm8 e ib => [e.operand16 s, .imm (sext16 ib)]
  | .sbbRm8R8 e g => [e.operand8 s, .reg8 g]
  | .sbbRm16R16 e g => [e.operand16 s, .reg16 g]
  | .sbbR8Rm8 g e => [.reg8 g, e.operand8 s]
  | .sbbR16Rm16 g e => [.reg16 g, e.operand16 s]
  | .sbbAlImm8 ib => [.reg8 .al, .imm (ib.setWidth 16)]
  | .sbbAxImm16 iw => [.reg16 .ax, .imm iw]
  | .sbbRm8Imm8 e ib => [e.operand8 s, .imm (ib.setWidth 16)]
  | .sbbRm16Imm16 e iw => [e.operand16 s, .imm iw]
  | .sbbRm16Imm8 e ib => [e.operand16 s, .imm (sext16 ib)]
  | .andRm8R8 e g => [e.operand8 s, .reg8 g]
  | .andRm16R16 e g => [e.operand16 s, .reg16 g]
  | .andR8Rm8 g e => [.reg8 g, e.operand8 s]
  | .andR16Rm16 g e => [.reg16 g, e.operand16 s]
  | .andAlImm8 ib => [.reg8 .al, .imm (ib.setWidth 16)]
  | .andAxImm16 iw => [.reg16 .ax, .imm iw]
  | .andRm8Imm8 e ib => [e.operand8 s, .imm (ib.setWidth 16)]
  | .andRm16Imm16 e iw => [e.operand16 s, .imm iw]
  | .andRm16Imm8 e ib => [e.operand16 s, .imm (sext16 ib)]
  | .subRm8R8 e g => [e.operand8 s, .reg8 g]
  | .subRm16R16 e g => [e.operand16 s, .reg16 g]
  | .subR8Rm8 g e => [.reg8 g, e.operand8 s]
  | .subR16Rm16 g e => [.reg16 g, e.operand16 s]
  | .subAlImm8 ib => [.reg8 .al, .imm (ib.setWidth 16)]
  | .subAxImm16 iw => [.reg16 .ax, .imm iw]
  | .subRm8Imm8 e ib => [e.operand8 s, .imm (ib.setWidth 16)]
  | .subRm16Imm16 e iw => [e.operand16 s, .imm iw]
  | .subRm16Imm8 e ib => [e.operand16 s, .imm (sext16 ib)]
  | .xorRm8R8 e g => [e.operand8 s, .reg8 g]
  | .xorRm16R16 e g => [e.operand16 s, .reg16 g]
  | .xorR8Rm8 g e => [.reg8 g, e.operand8 s]
  | .xorR16Rm16 g e => [.reg16 g, e.operand16 s]
  | .xorAlImm8 ib => [.reg8 .al, .imm (ib.setWidth 16)]
  | .xorAxImm16 iw => [.reg16 .ax, .imm iw]
  | .xorRm8Imm8 e ib => [e.operand8 s, .imm (ib.setWidth 16)]
  | .xorRm16Imm16 e iw => [e.operand16 s, .imm iw]
  | .xorRm16Imm8 e ib => [e.operand16 s, .imm (sext16 ib)]
  | .cmpRm8R8 e g => [e.operand8 s, .reg8 g]
  | .cmpRm16R16 e g => [e.operand16 s, .reg16 g]
  | .cmpR8Rm8 g e => [.reg8 g, e.operand8 s]
  | .cmpR16Rm16 g e => [.reg16 g, e.operand16 s]
  | .cmpAlImm8 ib => [.reg8 .al, .imm (ib.setWidth 16)]
  | .cmpAxImm16 iw => [.reg16 .ax, .imm iw]
  | .cmpRm8Imm8 e ib => [e.operand8 s, .imm (ib.setWidth 16)]
  | .cmpRm16Imm16 e iw => [e.operand16 s, .imm iw]
  | .cmpRm16Imm8 e ib => [e.operand16 s, .imm (sext16 ib)]
  | .mulRm8 e => [e.operand8 s]
  | .mulRm16 e => [e.operand16 s]
  | .divRm16 e => [e.operand16 s]
  | .movRm8R8 e g => [e.operand8 s, .reg8 g]
  | .movRm16R16 e g => [e.operand16 s, .reg16 g]
  | .movR8Rm8 g e => [.reg8 g, e.operand8 s]
  | .movR16Rm16 g e => [.reg16 g, e.operand16 s]
  | .movRm16Sreg e sr => [e.operand16 s, .seg sr]
  | .movSregRm16 sr e => [.seg sr, e.operand16 s]
  | .leaR16M g m => [.reg16 g, .mem (m.offset s.regs)]
  | .movAlMoffs8 off => [.reg8 .al, .mem off]
  | .movAxMoffs16 off => [.reg16 .ax, .mem off]
  | .movMoffs8Al off => [.mem off, .reg8 .al]
  | .movMoffs16Ax off => [.mem off, .reg16 .ax]
  | .movR8Imm8 r ib => [.reg8 r, .imm (ib.setWidth 16)]
  | .movR16Imm16 r iw => [.reg16 r, .imm iw]
  | .movRm8Imm8 e ib => [e.operand8 s, .imm (ib.setWidth 16)]
  | .movRm16Imm16 e iw => [e.operand16 s, .imm iw]
  | .nop => []
  | .pushR16 r => [.reg16 r]
  | .popR16 r => [.reg16 r]
  | .pushEs => [.seg .es]
  | .pushCs => [.seg .cs]
  | .pushSs => [.seg .ss]
  | .pushDs => [.seg .ds]
  | .popEs => [.seg .es]
  | .popSs => [.seg .ss]
  | .popDs => [.seg .ds]
  | .jmpRel8 d => [.imm (sext16 d)]
  | .jmpRel16 d => [.imm d]
  | .jmpFar off sel => [.imm off, .imm sel]
  | .joRel8 d => [.imm (sext16 d)]
  | .jnoRel8 d => [.imm (sext16 d)]
  | .jbRel8 d => [.imm (sext16 d)]
  | .jnbRel8 d => [.imm (sext16 d)]
  | .jzRel8 d => [.imm (sext16 d)]
  | .jnzRel8 d => [.imm (sext16 d)]
  | .jbeRel8 d => [.imm (sext16 d)]
  | .jaRel8 d => [.imm (sext16 d)]
  | .jsRel8 d => [.imm (sext16 d)]
  | .jnsRel8 d => [.imm (sext16 d)]
  | .jpRel8 d => [.imm (sext16 d)]
  | .jnpRel8 d => [.imm (sext16 d)]
  | .jlRel8 d => [.imm (sext16 d)]
  | .jgeRel8 d => [.imm (sext16 d)]
  | .jleRel8 d => [.imm (sext16 d)]
  | .jgRel8 d => [.imm (sext16 d)]
  | .callRel16 d => [.imm d]
  | .callFar off sel => [.imm off, .imm sel]
  | .ret => []
  | .retImm16 iw => [.imm iw]
  | .retf => []
  | .retfImm16 iw => [.imm iw]
  | .movsb => []
  | .cmpsb => []
  | .lodsb => []
  | .intImm8 n => [.imm (n.setWidth 16)]
  | .clc => []
  | .stc => []
  | .cmc => []
  | .cli => []
  | .sti => []
  | .cld => []
  | .std => []
  | .esOverride => []
  | .csOverride => []
  | .ssOverride => []
  | .dsOverride => []
  | .fsOverride => []
  | .gsOverride => []
  | .repPrefix => []

end Sys2Proof
end

