-- ==== Sys2Proof/Machine/Alu.lean ====
section
/-! DEFINITION. The two-operand arithmetic and logic instructions (41_alu.md). -/

namespace Sys2Proof.Machine

/-- A byte two-operand instruction on a decoded destination and a source value: read, compute, write unless CMP, set
the six status flags (41_alu.md R256). A memory destination is one bus read, then one bus write. CF is read before any
flag is written (R262, R263). -/
def alu8 (op : AluOp) (dst : Loc Reg8) (b : Byte) (s : State) : State :=
  let r := op.prim (s.flag .CF) (s.read8 dst) b
  let s1 := s.saw8 dst
  (if op.writes then s1.write8 dst r.1 else s1).setStatus r.2

/-- A word two-operand instruction, as `alu8` (41_alu.md R256). -/
def alu16 (op : AluOp) (dst : Loc Reg16) (b : Word) (s : State) : State :=
  let r := op.prim (s.flag .CF) (s.read16 dst) b
  let s1 := s.saw16 dst
  (if op.writes then s1.write16 dst r.1 else s1).setStatus r.2

/-- A two-operand instruction in any of its nine forms (41_alu.md R255, R256): the ModRM operand is decoded first. -/
def aluInstr (op : AluOp) (f : AluForm) (s : State) : State :=
  match f with
  | .rm8r8 e g => alu8 op (s.loc e) (s.get8 g) (s.useRM e)
  | .rm16r16 e g => alu16 op (s.loc e) (s.get16 g) (s.useRM e)
  | .r8rm8 g e => alu8 op (.reg g) ((s.useRM e).read8 (s.loc e)) ((s.useRM e).saw8 (s.loc e))
  | .r16rm16 g e => alu16 op (.reg g) ((s.useRM e).read16 (s.loc e)) ((s.useRM e).saw16 (s.loc e))
  | .alImm8 ib => alu8 op (.reg .al) ib s
  | .axImm16 iw => alu16 op (.reg .ax) iw s
  | .rm8Imm8 e ib => alu8 op (s.loc e) ib (s.useRM e)
  | .rm16Imm16 e iw => alu16 op (s.loc e) iw (s.useRM e)
  | .rm16Imm8 e ib => alu16 op (s.loc e) (sext16 ib) (s.useRM e)

/-- ADD r/m8, r8 (R260). -/
def execAddRm8R8 (e : RM Reg8) (g : Reg8) (s : State) : Host.Outcome State Fault Refusal :=
  .next (aluInstr .add (.rm8r8 e g) s)

/-- ADD r/m16, r16 (R260). -/
def execAddRm16R16 (e : RM Reg16) (g : Reg16) (s : State) : Host.Outcome State Fault Refusal :=
  .next (aluInstr .add (.rm16r16 e g) s)

/-- ADD r8, r/m8 (R260). -/
def execAddR8Rm8 (g : Reg8) (e : RM Reg8) (s : State) : Host.Outcome State Fault Refusal :=
  .next (aluInstr .add (.r8rm8 g e) s)

/-- ADD r16, r/m16 (R260). -/
def execAddR16Rm16 (g : Reg16) (e : RM Reg16) (s : State) : Host.Outcome State Fault Refusal :=
  .next (aluInstr .add (.r16rm16 g e) s)

/-- ADD AL, imm8 (R260). -/
def execAddAlImm8 (ib : Byte) (s : State) : Host.Outcome State Fault Refusal :=
  .next (aluInstr .add (.alImm8 ib) s)

/-- ADD AX, imm16 (R260). -/
def execAddAxImm16 (iw : Word) (s : State) : Host.Outcome State Fault Refusal :=
  .next (aluInstr .add (.axImm16 iw) s)

/-- ADD r/m8, imm8 (R260). -/
def execAddRm8Imm8 (e : RM Reg8) (ib : Byte) (s : State) : Host.Outcome State Fault Refusal :=
  .next (aluInstr .add (.rm8Imm8 e ib) s)

/-- ADD r/m16, imm16 (R260). -/
def execAddRm16Imm16 (e : RM Reg16) (iw : Word) (s : State) : Host.Outcome State Fault Refusal :=
  .next (aluInstr .add (.rm16Imm16 e iw) s)

/-- ADD r/m16, imm8 (R260). -/
def execAddRm16Imm8 (e : RM Reg16) (ib : Byte) (s : State) : Host.Outcome State Fault Refusal :=
  .next (aluInstr .add (.rm16Imm8 e ib) s)

/-- OR r/m8, r8 (R261). -/
def execOrRm8R8 (e : RM Reg8) (g : Reg8) (s : State) : Host.Outcome State Fault Refusal :=
  .next (aluInstr .or (.rm8r8 e g) s)

/-- OR r/m16, r16 (R261). -/
def execOrRm16R16 (e : RM Reg16) (g : Reg16) (s : State) : Host.Outcome State Fault Refusal :=
  .next (aluInstr .or (.rm16r16 e g) s)

/-- OR r8, r/m8 (R261). -/
def execOrR8Rm8 (g : Reg8) (e : RM Reg8) (s : State) : Host.Outcome State Fault Refusal :=
  .next (aluInstr .or (.r8rm8 g e) s)

/-- OR r16, r/m16 (R261). -/
def execOrR16Rm16 (g : Reg16) (e : RM Reg16) (s : State) : Host.Outcome State Fault Refusal :=
  .next (aluInstr .or (.r16rm16 g e) s)

/-- OR AL, imm8 (R261). -/
def execOrAlImm8 (ib : Byte) (s : State) : Host.Outcome State Fault Refusal :=
  .next (aluInstr .or (.alImm8 ib) s)

/-- OR AX, imm16 (R261). -/
def execOrAxImm16 (iw : Word) (s : State) : Host.Outcome State Fault Refusal :=
  .next (aluInstr .or (.axImm16 iw) s)

/-- OR r/m8, imm8 (R261). -/
def execOrRm8Imm8 (e : RM Reg8) (ib : Byte) (s : State) : Host.Outcome State Fault Refusal :=
  .next (aluInstr .or (.rm8Imm8 e ib) s)

/-- OR r/m16, imm16 (R261). -/
def execOrRm16Imm16 (e : RM Reg16) (iw : Word) (s : State) : Host.Outcome State Fault Refusal :=
  .next (aluInstr .or (.rm16Imm16 e iw) s)

/-- OR r/m16, imm8 (R261). -/
def execOrRm16Imm8 (e : RM Reg16) (ib : Byte) (s : State) : Host.Outcome State Fault Refusal :=
  .next (aluInstr .or (.rm16Imm8 e ib) s)

/-- ADC r/m8, r8 (R262). -/
def execAdcRm8R8 (e : RM Reg8) (g : Reg8) (s : State) : Host.Outcome State Fault Refusal :=
  .next (aluInstr .adc (.rm8r8 e g) s)

/-- ADC r/m16, r16 (R262). -/
def execAdcRm16R16 (e : RM Reg16) (g : Reg16) (s : State) : Host.Outcome State Fault Refusal :=
  .next (aluInstr .adc (.rm16r16 e g) s)

/-- ADC r8, r/m8 (R262). -/
def execAdcR8Rm8 (g : Reg8) (e : RM Reg8) (s : State) : Host.Outcome State Fault Refusal :=
  .next (aluInstr .adc (.r8rm8 g e) s)

/-- ADC r16, r/m16 (R262). -/
def execAdcR16Rm16 (g : Reg16) (e : RM Reg16) (s : State) : Host.Outcome State Fault Refusal :=
  .next (aluInstr .adc (.r16rm16 g e) s)

/-- ADC AL, imm8 (R262). -/
def execAdcAlImm8 (ib : Byte) (s : State) : Host.Outcome State Fault Refusal :=
  .next (aluInstr .adc (.alImm8 ib) s)

/-- ADC AX, imm16 (R262). -/
def execAdcAxImm16 (iw : Word) (s : State) : Host.Outcome State Fault Refusal :=
  .next (aluInstr .adc (.axImm16 iw) s)

/-- ADC r/m8, imm8 (R262). -/
def execAdcRm8Imm8 (e : RM Reg8) (ib : Byte) (s : State) : Host.Outcome State Fault Refusal :=
  .next (aluInstr .adc (.rm8Imm8 e ib) s)

/-- ADC r/m16, imm16 (R262). -/
def execAdcRm16Imm16 (e : RM Reg16) (iw : Word) (s : State) : Host.Outcome State Fault Refusal :=
  .next (aluInstr .adc (.rm16Imm16 e iw) s)

/-- ADC r/m16, imm8 (R262). -/
def execAdcRm16Imm8 (e : RM Reg16) (ib : Byte) (s : State) : Host.Outcome State Fault Refusal :=
  .next (aluInstr .adc (.rm16Imm8 e ib) s)

/-- SBB r/m8, r8 (R263). -/
def execSbbRm8R8 (e : RM Reg8) (g : Reg8) (s : State) : Host.Outcome State Fault Refusal :=
  .next (aluInstr .sbb (.rm8r8 e g) s)

/-- SBB r/m16, r16 (R263). -/
def execSbbRm16R16 (e : RM Reg16) (g : Reg16) (s : State) : Host.Outcome State Fault Refusal :=
  .next (aluInstr .sbb (.rm16r16 e g) s)

/-- SBB r8, r/m8 (R263). -/
def execSbbR8Rm8 (g : Reg8) (e : RM Reg8) (s : State) : Host.Outcome State Fault Refusal :=
  .next (aluInstr .sbb (.r8rm8 g e) s)

/-- SBB r16, r/m16 (R263). -/
def execSbbR16Rm16 (g : Reg16) (e : RM Reg16) (s : State) : Host.Outcome State Fault Refusal :=
  .next (aluInstr .sbb (.r16rm16 g e) s)

/-- SBB AL, imm8 (R263). -/
def execSbbAlImm8 (ib : Byte) (s : State) : Host.Outcome State Fault Refusal :=
  .next (aluInstr .sbb (.alImm8 ib) s)

/-- SBB AX, imm16 (R263). -/
def execSbbAxImm16 (iw : Word) (s : State) : Host.Outcome State Fault Refusal :=
  .next (aluInstr .sbb (.axImm16 iw) s)

/-- SBB r/m8, imm8 (R263). -/
def execSbbRm8Imm8 (e : RM Reg8) (ib : Byte) (s : State) : Host.Outcome State Fault Refusal :=
  .next (aluInstr .sbb (.rm8Imm8 e ib) s)

/-- SBB r/m16, imm16 (R263). -/
def execSbbRm16Imm16 (e : RM Reg16) (iw : Word) (s : State) : Host.Outcome State Fault Refusal :=
  .next (aluInstr .sbb (.rm16Imm16 e iw) s)

/-- SBB r/m16, imm8 (R263). -/
def execSbbRm16Imm8 (e : RM Reg16) (ib : Byte) (s : State) : Host.Outcome State Fault Refusal :=
  .next (aluInstr .sbb (.rm16Imm8 e ib) s)

/-- AND r/m8, r8 (R264). -/
def execAndRm8R8 (e : RM Reg8) (g : Reg8) (s : State) : Host.Outcome State Fault Refusal :=
  .next (aluInstr .and (.rm8r8 e g) s)

/-- AND r/m16, r16 (R264). -/
def execAndRm16R16 (e : RM Reg16) (g : Reg16) (s : State) : Host.Outcome State Fault Refusal :=
  .next (aluInstr .and (.rm16r16 e g) s)

/-- AND r8, r/m8 (R264). -/
def execAndR8Rm8 (g : Reg8) (e : RM Reg8) (s : State) : Host.Outcome State Fault Refusal :=
  .next (aluInstr .and (.r8rm8 g e) s)

/-- AND r16, r/m16 (R264). -/
def execAndR16Rm16 (g : Reg16) (e : RM Reg16) (s : State) : Host.Outcome State Fault Refusal :=
  .next (aluInstr .and (.r16rm16 g e) s)

/-- AND AL, imm8 (R264). -/
def execAndAlImm8 (ib : Byte) (s : State) : Host.Outcome State Fault Refusal :=
  .next (aluInstr .and (.alImm8 ib) s)

/-- AND AX, imm16 (R264). -/
def execAndAxImm16 (iw : Word) (s : State) : Host.Outcome State Fault Refusal :=
  .next (aluInstr .and (.axImm16 iw) s)

/-- AND r/m8, imm8 (R264). -/
def execAndRm8Imm8 (e : RM Reg8) (ib : Byte) (s : State) : Host.Outcome State Fault Refusal :=
  .next (aluInstr .and (.rm8Imm8 e ib) s)

/-- AND r/m16, imm16 (R264). -/
def execAndRm16Imm16 (e : RM Reg16) (iw : Word) (s : State) : Host.Outcome State Fault Refusal :=
  .next (aluInstr .and (.rm16Imm16 e iw) s)

/-- AND r/m16, imm8 (R264). -/
def execAndRm16Imm8 (e : RM Reg16) (ib : Byte) (s : State) : Host.Outcome State Fault Refusal :=
  .next (aluInstr .and (.rm16Imm8 e ib) s)

/-- SUB r/m8, r8 (R265). -/
def execSubRm8R8 (e : RM Reg8) (g : Reg8) (s : State) : Host.Outcome State Fault Refusal :=
  .next (aluInstr .sub (.rm8r8 e g) s)

/-- SUB r/m16, r16 (R265). -/
def execSubRm16R16 (e : RM Reg16) (g : Reg16) (s : State) : Host.Outcome State Fault Refusal :=
  .next (aluInstr .sub (.rm16r16 e g) s)

/-- SUB r8, r/m8 (R265). -/
def execSubR8Rm8 (g : Reg8) (e : RM Reg8) (s : State) : Host.Outcome State Fault Refusal :=
  .next (aluInstr .sub (.r8rm8 g e) s)

/-- SUB r16, r/m16 (R265). -/
def execSubR16Rm16 (g : Reg16) (e : RM Reg16) (s : State) : Host.Outcome State Fault Refusal :=
  .next (aluInstr .sub (.r16rm16 g e) s)

/-- SUB AL, imm8 (R265). -/
def execSubAlImm8 (ib : Byte) (s : State) : Host.Outcome State Fault Refusal :=
  .next (aluInstr .sub (.alImm8 ib) s)

/-- SUB AX, imm16 (R265). -/
def execSubAxImm16 (iw : Word) (s : State) : Host.Outcome State Fault Refusal :=
  .next (aluInstr .sub (.axImm16 iw) s)

/-- SUB r/m8, imm8 (R265). -/
def execSubRm8Imm8 (e : RM Reg8) (ib : Byte) (s : State) : Host.Outcome State Fault Refusal :=
  .next (aluInstr .sub (.rm8Imm8 e ib) s)

/-- SUB r/m16, imm16 (R265). -/
def execSubRm16Imm16 (e : RM Reg16) (iw : Word) (s : State) : Host.Outcome State Fault Refusal :=
  .next (aluInstr .sub (.rm16Imm16 e iw) s)

/-- SUB r/m16, imm8 (R265). -/
def execSubRm16Imm8 (e : RM Reg16) (ib : Byte) (s : State) : Host.Outcome State Fault Refusal :=
  .next (aluInstr .sub (.rm16Imm8 e ib) s)

/-- XOR r/m8, r8 (R266). -/
def execXorRm8R8 (e : RM Reg8) (g : Reg8) (s : State) : Host.Outcome State Fault Refusal :=
  .next (aluInstr .xor (.rm8r8 e g) s)

/-- XOR r/m16, r16 (R266). -/
def execXorRm16R16 (e : RM Reg16) (g : Reg16) (s : State) : Host.Outcome State Fault Refusal :=
  .next (aluInstr .xor (.rm16r16 e g) s)

/-- XOR r8, r/m8 (R266). -/
def execXorR8Rm8 (g : Reg8) (e : RM Reg8) (s : State) : Host.Outcome State Fault Refusal :=
  .next (aluInstr .xor (.r8rm8 g e) s)

/-- XOR r16, r/m16 (R266). -/
def execXorR16Rm16 (g : Reg16) (e : RM Reg16) (s : State) : Host.Outcome State Fault Refusal :=
  .next (aluInstr .xor (.r16rm16 g e) s)

/-- XOR AL, imm8 (R266). -/
def execXorAlImm8 (ib : Byte) (s : State) : Host.Outcome State Fault Refusal :=
  .next (aluInstr .xor (.alImm8 ib) s)

/-- XOR AX, imm16 (R266). -/
def execXorAxImm16 (iw : Word) (s : State) : Host.Outcome State Fault Refusal :=
  .next (aluInstr .xor (.axImm16 iw) s)

/-- XOR r/m8, imm8 (R266). -/
def execXorRm8Imm8 (e : RM Reg8) (ib : Byte) (s : State) : Host.Outcome State Fault Refusal :=
  .next (aluInstr .xor (.rm8Imm8 e ib) s)

/-- XOR r/m16, imm16 (R266). -/
def execXorRm16Imm16 (e : RM Reg16) (iw : Word) (s : State) : Host.Outcome State Fault Refusal :=
  .next (aluInstr .xor (.rm16Imm16 e iw) s)

/-- XOR r/m16, imm8 (R266). -/
def execXorRm16Imm8 (e : RM Reg16) (ib : Byte) (s : State) : Host.Outcome State Fault Refusal :=
  .next (aluInstr .xor (.rm16Imm8 e ib) s)

/-- CMP r/m8, r8 (R267). -/
def execCmpRm8R8 (e : RM Reg8) (g : Reg8) (s : State) : Host.Outcome State Fault Refusal :=
  .next (aluInstr .cmp (.rm8r8 e g) s)

/-- CMP r/m16, r16 (R267). -/
def execCmpRm16R16 (e : RM Reg16) (g : Reg16) (s : State) : Host.Outcome State Fault Refusal :=
  .next (aluInstr .cmp (.rm16r16 e g) s)

/-- CMP r8, r/m8 (R267). -/
def execCmpR8Rm8 (g : Reg8) (e : RM Reg8) (s : State) : Host.Outcome State Fault Refusal :=
  .next (aluInstr .cmp (.r8rm8 g e) s)

/-- CMP r16, r/m16 (R267). -/
def execCmpR16Rm16 (g : Reg16) (e : RM Reg16) (s : State) : Host.Outcome State Fault Refusal :=
  .next (aluInstr .cmp (.r16rm16 g e) s)

/-- CMP AL, imm8 (R267). -/
def execCmpAlImm8 (ib : Byte) (s : State) : Host.Outcome State Fault Refusal :=
  .next (aluInstr .cmp (.alImm8 ib) s)

/-- CMP AX, imm16 (R267). -/
def execCmpAxImm16 (iw : Word) (s : State) : Host.Outcome State Fault Refusal :=
  .next (aluInstr .cmp (.axImm16 iw) s)

/-- CMP r/m8, imm8 (R267). -/
def execCmpRm8Imm8 (e : RM Reg8) (ib : Byte) (s : State) : Host.Outcome State Fault Refusal :=
  .next (aluInstr .cmp (.rm8Imm8 e ib) s)

/-- CMP r/m16, imm16 (R267). -/
def execCmpRm16Imm16 (e : RM Reg16) (iw : Word) (s : State) : Host.Outcome State Fault Refusal :=
  .next (aluInstr .cmp (.rm16Imm16 e iw) s)

/-- CMP r/m16, imm8 (R267). -/
def execCmpRm16Imm8 (e : RM Reg16) (ib : Byte) (s : State) : Host.Outcome State Fault Refusal :=
  .next (aluInstr .cmp (.rm16Imm8 e ib) s)

end Sys2Proof.Machine
end

