-- ==== Sys2Proof/Machine/Control.lean ====
section
/-! DEFINITION. Jumps, calls and returns (45_control.md). IP holds `next` when a meaning begins (40_cycle.md R204). -/

namespace Sys2Proof.Machine

/-- A conditional jump: IP stays at `next` when the condition fails (45_control.md R394). -/
def jccInstr (c : Cond) (d : Byte) (s : State) : State := if s.cond c then s.jumpRel (sext16 d) else s

/-- RET, RET imm16: `IP <- Pop16()`, then SP plus the immediate (45_control.md R413, R414). -/
def retNear (adj : Word) (s : State) : State :=
  let s1 := s.pop16.setIp s.stackTop
  s1.set16 .sp (s1.get16 .sp + adj)

/-- RETF, RETF imm16: `IP <- Pop16()`, `SEG[CS] <- Pop16()`, then SP plus the immediate (45_control.md R415, R416). -/
def retFar (adj : Word) (s : State) : State :=
  let s1 := s.pop16.setIp s.stackTop
  let s2 := s1.pop16.loadSeg .cs s1.stackTop
  s2.set16 .sp (s2.get16 .sp + adj)

/-- JMP rel8 (R391). -/
def execJmpRel8 (d : Byte) (s : State) : Host.Outcome State Fault Refusal :=
  .next (s.jumpRel (sext16 d))

/-- JMP rel16 (R392). -/
def execJmpRel16 (d : Word) (s : State) : Host.Outcome State Fault Refusal :=
  .next (s.jumpRel d)

/-- JMP ptr16:16 (R393). -/
def execJmpFar (off : Word) (sel : Word) (s : State) : Host.Outcome State Fault Refusal :=
  .next (s.jumpFar off sel)

/-- JO rel8 (R395). -/
def execJoRel8 (d : Byte) (s : State) : Host.Outcome State Fault Refusal :=
  .next (jccInstr .o d s)

/-- JNO rel8 (R396). -/
def execJnoRel8 (d : Byte) (s : State) : Host.Outcome State Fault Refusal :=
  .next (jccInstr .no d s)

/-- JB rel8 (R397). -/
def execJbRel8 (d : Byte) (s : State) : Host.Outcome State Fault Refusal :=
  .next (jccInstr .b d s)

/-- JNB rel8 (R398). -/
def execJnbRel8 (d : Byte) (s : State) : Host.Outcome State Fault Refusal :=
  .next (jccInstr .nb d s)

/-- JZ rel8 (R399). -/
def execJzRel8 (d : Byte) (s : State) : Host.Outcome State Fault Refusal :=
  .next (jccInstr .z d s)

/-- JNZ rel8 (R400). -/
def execJnzRel8 (d : Byte) (s : State) : Host.Outcome State Fault Refusal :=
  .next (jccInstr .nz d s)

/-- JBE rel8 (R401). -/
def execJbeRel8 (d : Byte) (s : State) : Host.Outcome State Fault Refusal :=
  .next (jccInstr .be d s)

/-- JA rel8 (R402). -/
def execJaRel8 (d : Byte) (s : State) : Host.Outcome State Fault Refusal :=
  .next (jccInstr .a d s)

/-- JS rel8 (R403). -/
def execJsRel8 (d : Byte) (s : State) : Host.Outcome State Fault Refusal :=
  .next (jccInstr .s d s)

/-- JNS rel8 (R404). -/
def execJnsRel8 (d : Byte) (s : State) : Host.Outcome State Fault Refusal :=
  .next (jccInstr .ns d s)

/-- JP rel8 (R405). -/
def execJpRel8 (d : Byte) (s : State) : Host.Outcome State Fault Refusal :=
  .next (jccInstr .p d s)

/-- JNP rel8 (R406). -/
def execJnpRel8 (d : Byte) (s : State) : Host.Outcome State Fault Refusal :=
  .next (jccInstr .np d s)

/-- JL rel8 (R407). -/
def execJlRel8 (d : Byte) (s : State) : Host.Outcome State Fault Refusal :=
  .next (jccInstr .l d s)

/-- JGE rel8 (R408). -/
def execJgeRel8 (d : Byte) (s : State) : Host.Outcome State Fault Refusal :=
  .next (jccInstr .ge d s)

/-- JLE rel8 (R409). -/
def execJleRel8 (d : Byte) (s : State) : Host.Outcome State Fault Refusal :=
  .next (jccInstr .le d s)

/-- JG rel8 (R410). -/
def execJgRel8 (d : Byte) (s : State) : Host.Outcome State Fault Refusal :=
  .next (jccInstr .g d s)

/-- CALL rel16 (R411). -/
def execCallRel16 (d : Word) (s : State) : Host.Outcome State Fault Refusal :=
  .next ((s.push16 s.ip).jumpRel d)

/-- CALL ptr16:16 (R412). -/
def execCallFar (off : Word) (sel : Word) (s : State) : Host.Outcome State Fault Refusal :=
  .next (((s.push16 (s.segs.get .cs).sel).push16 s.ip).jumpFar off sel)

/-- RET (R413). -/
def execRet (s : State) : Host.Outcome State Fault Refusal :=
  .next (retNear 0 s)

/-- RET imm16 (R414). -/
def execRetImm16 (iw : Word) (s : State) : Host.Outcome State Fault Refusal :=
  .next (retNear iw s)

/-- RETF (R415). -/
def execRetf (s : State) : Host.Outcome State Fault Refusal :=
  .next (retFar 0 s)

/-- RETF imm16 (R416). -/
def execRetfImm16 (iw : Word) (s : State) : Host.Outcome State Fault Refusal :=
  .next (retFar iw s)

end Sys2Proof.Machine
end

