-- ==== Sys2Proof/Machine/Move.lean ====
section
/-! DEFINITION. Data movement: MOV, LEA, NOP (43_move.md). -/

namespace Sys2Proof.Machine

/-- `WriteOp(E, v)`, 8 bits (43_move.md R320, R332). -/
def movToRm8 (e : RM Reg8) (v : Byte) (s : State) : State := (s.useRM e).write8 (s.loc e) v

/-- `WriteOp(E, v)`, 16 bits (43_move.md R321, R324, R333). -/
def movToRm16 (e : RM Reg16) (v : Word) (s : State) : State := (s.useRM e).write16 (s.loc e) v

/-- `WriteOp(Reg8(g), ReadOp(E))` (43_move.md R322). -/
def movFromRm8 (g : Reg8) (e : RM Reg8) (s : State) : State :=
  ((s.useRM e).saw8 (s.loc e)).set8 g ((s.useRM e).read8 (s.loc e))

/-- `WriteOp(Reg16(g), ReadOp(E))` (43_move.md R323). -/
def movFromRm16 (g : Reg16) (e : RM Reg16) (s : State) : State :=
  ((s.useRM e).saw16 (s.loc e)).set16 g ((s.useRM e).read16 (s.loc e))

/-- `v <- ReadOp(E)`, then the segment write (43_move.md R325). -/
def movSreg (sr : SegReg) (e : RM Reg16) (s : State) : State :=
  ((s.useRM e).saw16 (s.loc e)).loadSeg sr ((s.useRM e).read16 (s.loc e))

/-- MOV r/m8, r8 (R320). -/
def execMovRm8R8 (e : RM Reg8) (g : Reg8) (s : State) : Host.Outcome State Fault Refusal :=
  .next (movToRm8 e (s.get8 g) s)

/-- MOV r/m16, r16 (R321). -/
def execMovRm16R16 (e : RM Reg16) (g : Reg16) (s : State) : Host.Outcome State Fault Refusal :=
  .next (movToRm16 e (s.get16 g) s)

/-- MOV r8, r/m8 (R322). -/
def execMovR8Rm8 (g : Reg8) (e : RM Reg8) (s : State) : Host.Outcome State Fault Refusal :=
  .next (movFromRm8 g e s)

/-- MOV r16, r/m16 (R323). -/
def execMovR16Rm16 (g : Reg16) (e : RM Reg16) (s : State) : Host.Outcome State Fault Refusal :=
  .next (movFromRm16 g e s)

/-- MOV r/m16, Sreg (R324). -/
def execMovRm16Sreg (e : RM Reg16) (sr : SegReg) (s : State) : Host.Outcome State Fault Refusal :=
  .next (movToRm16 e (s.segs.get sr).sel s)

/-- MOV Sreg, r/m16 (R325). -/
def execMovSregRm16 (sr : SegReg) (e : RM Reg16) (s : State) : Host.Outcome State Fault Refusal :=
  .next (movSreg sr e s)

/-- LEA r16, m (R334). -/
def execLeaR16M (g : Reg16) (m : MemForm) (s : State) : Host.Outcome State Fault Refusal :=
  .next ((s.useMem m).set16 g (m.offset s.regs))

/-- MOV AL, moffs8 (R326). -/
def execMovAlMoffs8 (off : Word) (s : State) : Host.Outcome State Fault Refusal :=
  .next ((s.sawByte (s.segAddr s.ads off)).set8 .al (s.readByte (s.segAddr s.ads off)))

/-- MOV AX, moffs16 (R327). -/
def execMovAxMoffs16 (off : Word) (s : State) : Host.Outcome State Fault Refusal :=
  .next ((s.sawWord (s.segAddr s.ads off)).set16 .ax (s.readWord (s.segAddr s.ads off)))

/-- MOV moffs8, AL (R328). -/
def execMovMoffs8Al (off : Word) (s : State) : Host.Outcome State Fault Refusal :=
  .next (s.writeByte (s.segAddr s.ads off) (s.get8 .al))

/-- MOV moffs16, AX (R329). -/
def execMovMoffs16Ax (off : Word) (s : State) : Host.Outcome State Fault Refusal :=
  .next (s.writeWord (s.segAddr s.ads off) (s.get16 .ax))

/-- MOV r8, imm8 (R330). -/
def execMovR8Imm8 (r : Reg8) (ib : Byte) (s : State) : Host.Outcome State Fault Refusal :=
  .next (s.set8 r ib)

/-- MOV r16, imm16 (R331). -/
def execMovR16Imm16 (r : Reg16) (iw : Word) (s : State) : Host.Outcome State Fault Refusal :=
  .next (s.set16 r iw)

/-- MOV r/m8, imm8 (R332). -/
def execMovRm8Imm8 (e : RM Reg8) (ib : Byte) (s : State) : Host.Outcome State Fault Refusal :=
  .next (movToRm8 e ib s)

/-- MOV r/m16, imm16 (R333). -/
def execMovRm16Imm16 (e : RM Reg16) (iw : Word) (s : State) : Host.Outcome State Fault Refusal :=
  .next (movToRm16 e iw s)

/-- NOP (R335). -/
def execNop (s : State) : Host.Outcome State Fault Refusal :=
  .next s

end Sys2Proof.Machine
end

