-- ==== Sys2Proof/Machine/MulDiv.lean ====
section
/-! DEFINITION. Multiply and divide (42_muldiv.md). -/

namespace Sys2Proof.Machine

/-- The exact product of two bytes (42_muldiv.md R300). -/
def product8 (a b : Byte) : Word := a.setWidth 16 * b.setWidth 16

/-- The exact product of two words (42_muldiv.md R301). -/
def product16 (a b : Word) : DWord := a.setWidth 32 * b.setWidth 32

/-- MUL r/m8: AX <- AL * E; CF and OF tell a non-zero high half; no other flag changes (42_muldiv.md R300). -/
def mulByte (e : RM Reg8) (s : State) : State :=
  let s1 := s.useRM e
  let p := product8 (s1.get8 .al) (s1.read8 (s.loc e))
  let high := hiByte p != 0
  (((s1.saw8 (s.loc e)).set16 .ax p).setFlag .CF high).setFlag .OF high

/-- MUL r/m16: DX:AX <- AX * E; CF and OF as in `mulByte` (42_muldiv.md R301). -/
def mulWord (e : RM Reg16) (s : State) : State :=
  let s1 := s.useRM e
  let p := product16 (s1.get16 .ax) (s1.read16 (s.loc e))
  let high := p.extractLsb' 16 16 != 0
  let s2 := ((s1.saw16 (s.loc e)).set16 .ax (p.extractLsb' 0 16)).set16 .dx (p.extractLsb' 16 16)
  (s2.setFlag .CF high).setFlag .OF high

/-- The dividend DX:AX (42_muldiv.md R302). -/
def State.dividend (s : State) : Nat := (s.get16 .dx).toNat * 2 ^ 16 + (s.get16 .ax).toNat

/-- DIV r/m16: quotient to AX, remainder to DX, no flag; a zero divisor or a quotient above 0xFFFF signals Interrupt(0)
and changes nothing of its own (42_muldiv.md R302, 60_exceptions.md R502). -/
def divWord (e : RM Reg16) (s : State) : State :=
  let s1 := s.useRM e
  let d := (s1.read16 (s.loc e)).toNat
  let n := s1.dividend
  let s2 := s1.saw16 (s.loc e)
  if d = 0 ∨ n / d > 0xFFFF then signalInterrupt 0 s2
  else (s2.set16 .ax (BitVec.ofNat 16 (n / d))).set16 .dx (BitVec.ofNat 16 (n % d))

/-- MUL r/m8 (R300). -/
def execMulRm8 (e : RM Reg8) (s : State) : Host.Outcome State Fault Refusal :=
  .next (mulByte e s)

/-- MUL r/m16 (R301). -/
def execMulRm16 (e : RM Reg16) (s : State) : Host.Outcome State Fault Refusal :=
  .next (mulWord e s)

/-- DIV r/m16 (R302). -/
def execDivRm16 (e : RM Reg16) (s : State) : Host.Outcome State Fault Refusal :=
  .next (divWord e s)

end Sys2Proof.Machine
end

