-- ==== Sys2Proof/Machine/Prefixes.lean ====
section
/-! DEFINITION. The seven prefix bytes: what each does in the prefix loop (30_encoding.md R130). Machine/Fetch.lean
reads them, Machine/Cycle.lean runs them before the opcode, in the same Cycle. -/

namespace Sys2Proof.Machine

/-- ES: (segment override) (R130). -/
def execEsOverride (s : State) : Host.Outcome State Fault Refusal :=
  .next (s.overrideSeg .es)

/-- CS: (segment override) (R130). -/
def execCsOverride (s : State) : Host.Outcome State Fault Refusal :=
  .next (s.overrideSeg .cs)

/-- SS: (segment override) (R130). -/
def execSsOverride (s : State) : Host.Outcome State Fault Refusal :=
  .next (s.overrideSeg .ss)

/-- DS: (segment override) (R130). -/
def execDsOverride (s : State) : Host.Outcome State Fault Refusal :=
  .next (s.overrideSeg .ds)

/-- FS: (segment override) (R130). -/
def execFsOverride (s : State) : Host.Outcome State Fault Refusal :=
  .next (s.overrideSeg .fs)

/-- GS: (segment override) (R130). -/
def execGsOverride (s : State) : Host.Outcome State Fault Refusal :=
  .next (s.overrideSeg .gs)

/-- REP (repeat prefix) (R130). -/
def execRepPrefix (s : State) : Host.Outcome State Fault Refusal :=
  .next (s.setRep)

end Sys2Proof.Machine
end

