-- ==== Sys2Proof/Machine/Stack.lean ====
section
/-! DEFINITION. PUSH and POP (44_stack.md). -/

namespace Sys2Proof.Machine

/-- `Push16(SEG[r].sel)` (44_stack.md R365 to R368). -/
def pushSeg (r : SegReg) (s : State) : State := s.push16 (s.segs.get r).sel

/-- `v <- Pop16()` through the SS before, then `SEG[r] <- v` (44_stack.md R369 to R371). -/
def popSeg (r : SegReg) (s : State) : State := s.pop16.loadSeg r s.stackTop

/-- PUSH r16 (R363). -/
def execPushR16 (r : Reg16) (s : State) : Host.Outcome State Fault Refusal :=
  .next (s.push16 (s.get16 r))

/-- POP r16 (R364). -/
def execPopR16 (r : Reg16) (s : State) : Host.Outcome State Fault Refusal :=
  .next (s.pop16.set16 r s.stackTop)

/-- PUSH ES (R365). -/
def execPushEs (s : State) : Host.Outcome State Fault Refusal :=
  .next (pushSeg .es s)

/-- PUSH CS (R366). -/
def execPushCs (s : State) : Host.Outcome State Fault Refusal :=
  .next (pushSeg .cs s)

/-- PUSH SS (R367). -/
def execPushSs (s : State) : Host.Outcome State Fault Refusal :=
  .next (pushSeg .ss s)

/-- PUSH DS (R368). -/
def execPushDs (s : State) : Host.Outcome State Fault Refusal :=
  .next (pushSeg .ds s)

/-- POP ES (R369). -/
def execPopEs (s : State) : Host.Outcome State Fault Refusal :=
  .next (popSeg .es s)

/-- POP SS (R370). -/
def execPopSs (s : State) : Host.Outcome State Fault Refusal :=
  .next (popSeg .ss s)

/-- POP DS (R371). -/
def execPopDs (s : State) : Host.Outcome State Fault Refusal :=
  .next (popSeg .ds s)

end Sys2Proof.Machine
end

