-- ==== Sys2Proof/Machine/Strings.lean ====
section
/-! DEFINITION. String instructions and the repeat prefix (46_string.md). -/

namespace Sys2Proof.Machine

/-- The step of the index registers: -1 when DF is set, else +1, mod 2^16 (46_string.md R430). -/
def State.delta (s : State) : Word := if s.flag .DF then -1 else 1

/-- `SI <- (SI + delta) mod 2^16` (46_string.md R430). -/
def State.advanceSi (s : State) : State := s.set16 .si (s.get16 .si + s.delta)

/-- `DI <- (DI + delta) mod 2^16` (46_string.md R430). -/
def State.advanceDi (s : State) : State := s.set16 .di (s.get16 .di + s.delta)

/-- The linear address of the source operand [ADS:SI] (20_memory.md R92). -/
def State.stringSrc (s : State) : Addr := s.segAddr s.ads (s.get16 .si)

/-- The linear address of the destination operand [ES:DI]; no override applies (20_memory.md R92). -/
def State.stringDst (s : State) : Addr := s.segAddr .es (s.get16 .di)

/-- The unit of MOVSB (46_string.md R432). -/
def movsbUnit (s : State) : State :=
  ((s.sawByte s.stringSrc).writeByte s.stringDst (s.readByte s.stringSrc)).advanceSi.advanceDi

/-- The unit of CMPSB: the flags of [ADS:SI] - [ES:DI], read in this order (46_string.md R433). -/
def cmpsbUnit (s : State) : State :=
  let s1 := s.sawByte s.stringSrc
  let s2 := s1.sawByte s.stringDst
  (s2.setStatus (subB (s.readByte s.stringSrc) (s1.readByte s.stringDst) false).2).advanceSi.advanceDi

/-- The unit of LODSB; DI is unchanged (46_string.md R434). -/
def lodsbUnit (s : State) : State := ((s.sawByte s.stringSrc).set8 .al (s.readByte s.stringSrc)).advanceSi

/-- `CX <- (CX - 1) mod 2^16` (46_string.md R431). -/
def State.decCx (s : State) : State := s.set16 .cx (s.get16 .cx - 1)

/-- The loop `while CX != 0` of 46_string.md R431, at most `fuel` units. -/
def repeatUnits (unit : State → State) : Nat → State → State
  | 0, s => s
  | fuel + 1, s => if s.get16 .cx = 0 then s else repeatUnits unit fuel (unit s).decCx

/-- `StringExec(unit)` (46_string.md R431): once without REP, else while CX is not 0. No unit writes CX, so CX before is
how many run. -/
def stringExec (unit : State → State) (s : State) : State :=
  if s.rep then repeatUnits unit (s.get16 .cx).toNat s else unit s

/-- MOVSB (R432). -/
def execMovsb (s : State) : Host.Outcome State Fault Refusal :=
  .next (stringExec movsbUnit s)

/-- CMPSB (R433). -/
def execCmpsb (s : State) : Host.Outcome State Fault Refusal :=
  .next (stringExec cmpsbUnit s)

/-- LODSB (R434). -/
def execLodsb (s : State) : Host.Outcome State Fault Refusal :=
  .next (stringExec lodsbUnit s)

end Sys2Proof.Machine
end

