-- ==== Sys2Proof/Machine/System.lean ====
section
/-! DEFINITION. Software interrupt and flag control (47_system.md). -/

namespace Sys2Proof.Machine

/-- INT imm8 (R460). -/
def execIntImm8 (n : Byte) (s : State) : Host.Outcome State Fault Refusal :=
  .next (signalInterrupt n s)

/-- CLC (R461). -/
def execClc (s : State) : Host.Outcome State Fault Refusal :=
  .next (s.setFlag .CF false)

/-- STC (R462). -/
def execStc (s : State) : Host.Outcome State Fault Refusal :=
  .next (s.setFlag .CF true)

/-- CMC (R463). -/
def execCmc (s : State) : Host.Outcome State Fault Refusal :=
  .next (s.setFlag .CF (!s.flag .CF))

/-- CLI (R464). -/
def execCli (s : State) : Host.Outcome State Fault Refusal :=
  .next (s.setFlag .IF false)

/-- STI (R465). -/
def execSti (s : State) : Host.Outcome State Fault Refusal :=
  .next (s.setFlag .IF true)

/-- CLD (R466). -/
def execCld (s : State) : Host.Outcome State Fault Refusal :=
  .next (s.setFlag .DF false)

/-- STD (R467). -/
def execStd (s : State) : Host.Outcome State Fault Refusal :=
  .next (s.setFlag .DF true)

end Sys2Proof.Machine
end

