-- ==== Sys2Proof/Machine/Dispatch.lean ====
section
/-! DEFINITION. `exec`: one arm per constructor of `Instr`, each one call of the instruction's meaning. -/

namespace Sys2Proof.Machine

def exec (i : Instr) (s : State) : Host.Outcome State Fault Refusal :=
  match i with
  | .addRm8R8 e g => Sys2Proof.Machine.execAddRm8R8 e g s
  | .addRm16R16 e g => Sys2Proof.Machine.execAddRm16R16 e g s
  | .addR8Rm8 g e => Sys2Proof.Machine.execAddR8Rm8 g e s
  | .addR16Rm16 g e => Sys2Proof.Machine.execAddR16Rm16 g e s
  | .addAlImm8 ib => Sys2Proof.Machine.execAddAlImm8 ib s
  | .addAxImm16 iw => Sys2Proof.Machine.execAddAxImm16 iw s
  | .addRm8Imm8 e ib => Sys2Proof.Machine.execAddRm8Imm8 e ib s
  | .addRm16Imm16 e iw => Sys2Proof.Machine.execAddRm16Imm16 e iw s
  | .addRm16Imm8 e ib => Sys2Proof.Machine.execAddRm16Imm8 e ib s
  | .orRm8R8 e g => Sys2Proof.Machine.execOrRm8R8 e g s
  | .orRm16R16 e g => Sys2Proof.Machine.execOrRm16R16 e g s
  | .orR8Rm8 g e => Sys2Proof.Machine.execOrR8Rm8 g e s
  | .orR16Rm16 g e => Sys2Proof.Machine.execOrR16Rm16 g e s
  | .orAlImm8 ib => Sys2Proof.Machine.execOrAlImm8 ib s
  | .orAxImm16 iw => Sys2Proof.Machine.execOrAxImm16 iw s
  | .orRm8Imm8 e ib => Sys2Proof.Machine.execOrRm8Imm8 e ib s
  | .orRm16Imm16 e iw => Sys2Proof.Machine.execOrRm16Imm16 e iw s
  | .orRm16Imm8 e ib => Sys2Proof.Machine.execOrRm16Imm8 e ib s
  | .adcRm8R8 e g => Sys2Proof.Machine.execAdcRm8R8 e g s
  | .adcRm16R16 e g => Sys2Proof.Machine.execAdcRm16R16 e g s
  | .adcR8Rm8 g e => Sys2Proof.Machine.execAdcR8Rm8 g e s
  | .adcR16Rm16 g e => Sys2Proof.Machine.execAdcR16Rm16 g e s
  | .adcAlImm8 ib => Sys2Proof.Machine.execAdcAlImm8 ib s
  | .adcAxImm16 iw => Sys2Proof.Machine.execAdcAxImm16 iw s
  | .adcRm8Imm8 e ib => Sys2Proof.Machine.execAdcRm8Imm8 e ib s
  | .adcRm16Imm16 e iw => Sys2Proof.Machine.execAdcRm16Imm16 e iw s
  | .adcRm16Imm8 e ib => Sys2Proof.Machine.execAdcRm16Imm8 e ib s
  | .sbbRm8R8 e g => Sys2Proof.Machine.execSbbRm8R8 e g s
  | .sbbRm16R16 e g => Sys2Proof.Machine.execSbbRm16R16 e g s
  | .sbbR8Rm8 g e => Sys2Proof.Machine.execSbbR8Rm8 g e s
  | .sbbR16Rm16 g e => Sys2Proof.Machine.execSbbR16Rm16 g e s
  | .sbbAlImm8 ib => Sys2Proof.Machine.execSbbAlImm8 ib s
  | .sbbAxImm16 iw => Sys2Proof.Machine.execSbbAxImm16 iw s
  | .sbbRm8Imm8 e ib => Sys2Proof.Machine.execSbbRm8Imm8 e ib s
  | .sbbRm16Imm16 e iw => Sys2Proof.Machine.execSbbRm16Imm16 e iw s
  | .sbbRm16Imm8 e ib => Sys2Proof.Machine.execSbbRm16Imm8 e ib s
  | .andRm8R8 e g => Sys2Proof.Machine.execAndRm8R8 e g s
  | .andRm16R16 e g => Sys2Proof.Machine.execAndRm16R16 e g s
  | .andR8Rm8 g e => Sys2Proof.Machine.execAndR8Rm8 g e s
  | .andR16Rm16 g e => Sys2Proof.Machine.execAndR16Rm16 g e s
  | .andAlImm8 ib => Sys2Proof.Machine.execAndAlImm8 ib s
  | .andAxImm16 iw => Sys2Proof.Machine.execAndAxImm16 iw s
  | .andRm8Imm8 e ib => Sys2Proof.Machine.execAndRm8Imm8 e ib s
  | .andRm16Imm16 e iw => Sys2Proof.Machine.execAndRm16Imm16 e iw s
  | .andRm16Imm8 e ib => Sys2Proof.Machine.execAndRm16Imm8 e ib s
  | .subRm8R8 e g => Sys2Proof.Machine.execSubRm8R8 e g s
  | .subRm16R16 e g => Sys2Proof.Machine.execSubRm16R16 e g s
  | .subR8Rm8 g e => Sys2Proof.Machine.execSubR8Rm8 g e s
  | .subR16Rm16 g e => Sys2Proof.Machine.execSubR16Rm16 g e s
  | .subAlImm8 ib => Sys2Proof.Machine.execSubAlImm8 ib s
  | .subAxImm16 iw => Sys2Proof.Machine.execSubAxImm16 iw s
  | .subRm8Imm8 e ib => Sys2Proof.Machine.execSubRm8Imm8 e ib s
  | .subRm16Imm16 e iw => Sys2Proof.Machine.execSubRm16Imm16 e iw s
  | .subRm16Imm8 e ib => Sys2Proof.Machine.execSubRm16Imm8 e ib s
  | .xorRm8R8 e g => Sys2Proof.Machine.execXorRm8R8 e g s
  | .xorRm16R16 e g => Sys2Proof.Machine.execXorRm16R16 e g s
  | .xorR8Rm8 g e => Sys2Proof.Machine.execXorR8Rm8 g e s
  | .xorR16Rm16 g e => Sys2Proof.Machine.execXorR16Rm16 g e s
  | .xorAlImm8 ib => Sys2Proof.Machine.execXorAlImm8 ib s
  | .xorAxImm16 iw => Sys2Proof.Machine.execXorAxImm16 iw s
  | .xorRm8Imm8 e ib => Sys2Proof.Machine.execXorRm8Imm8 e ib s
  | .xorRm16Imm16 e iw => Sys2Proof.Machine.execXorRm16Imm16 e iw s
  | .xorRm16Imm8 e ib => Sys2Proof.Machine.execXorRm16Imm8 e ib s
  | .cmpRm8R8 e g => Sys2Proof.Machine.execCmpRm8R8 e g s
  | .cmpRm16R16 e g => Sys2Proof.Machine.execCmpRm16R16 e g s
  | .cmpR8Rm8 g e => Sys2Proof.Machine.execCmpR8Rm8 g e s
  | .cmpR16Rm16 g e => Sys2Proof.Machine.execCmpR16Rm16 g e s
  | .cmpAlImm8 ib => Sys2Proof.Machine.execCmpAlImm8 ib s
  | .cmpAxImm16 iw => Sys2Proof.Machine.execCmpAxImm16 iw s
  | .cmpRm8Imm8 e ib => Sys2Proof.Machine.execCmpRm8Imm8 e ib s
  | .cmpRm16Imm16 e iw => Sys2Proof.Machine.execCmpRm16Imm16 e iw s
  | .cmpRm16Imm8 e ib => Sys2Proof.Machine.execCmpRm16Imm8 e ib s
  | .mulRm8 e => Sys2Proof.Machine.execMulRm8 e s
  | .mulRm16 e => Sys2Proof.Machine.execMulRm16 e s
  | .divRm16 e => Sys2Proof.Machine.execDivRm16 e s
  | .movRm8R8 e g => Sys2Proof.Machine.execMovRm8R8 e g s
  | .movRm16R16 e g => Sys2Proof.Machine.execMovRm16R16 e g s
  | .movR8Rm8 g e => Sys2Proof.Machine.execMovR8Rm8 g e s
  | .movR16Rm16 g e => Sys2Proof.Machine.execMovR16Rm16 g e s
  | .movRm16Sreg e sr => Sys2Proof.Machine.execMovRm16Sreg e sr s
  | .movSregRm16 sr e => Sys2Proof.Machine.execMovSregRm16 sr e s
  | .leaR16M g m => Sys2Proof.Machine.execLeaR16M g m s
  | .movAlMoffs8 off => Sys2Proof.Machine.execMovAlMoffs8 off s
  | .movAxMoffs16 off => Sys2Proof.Machine.execMovAxMoffs16 off s
  | .movMoffs8Al off => Sys2Proof.Machine.execMovMoffs8Al off s
  | .movMoffs16Ax off => Sys2Proof.Machine.execMovMoffs16Ax off s
  | .movR8Imm8 r ib => Sys2Proof.Machine.execMovR8Imm8 r ib s
  | .movR16Imm16 r iw => Sys2Proof.Machine.execMovR16Imm16 r iw s
  | .movRm8Imm8 e ib => Sys2Proof.Machine.execMovRm8Imm8 e ib s
  | .movRm16Imm16 e iw => Sys2Proof.Machine.execMovRm16Imm16 e iw s
  | .nop => Sys2Proof.Machine.execNop s
  | .pushR16 r => Sys2Proof.Machine.execPushR16 r s
  | .popR16 r => Sys2Proof.Machine.execPopR16 r s
  | .pushEs => Sys2Proof.Machine.execPushEs s
  | .pushCs => Sys2Proof.Machine.execPushCs s
  | .pushSs => Sys2Proof.Machine.execPushSs s
  | .pushDs => Sys2Proof.Machine.execPushDs s
  | .popEs => Sys2Proof.Machine.execPopEs s
  | .popSs => Sys2Proof.Machine.execPopSs s
  | .popDs => Sys2Proof.Machine.execPopDs s
  | .jmpRel8 d => Sys2Proof.Machine.execJmpRel8 d s
  | .jmpRel16 d => Sys2Proof.Machine.execJmpRel16 d s
  | .jmpFar off sel => Sys2Proof.Machine.execJmpFar off sel s
  | .joRel8 d => Sys2Proof.Machine.execJoRel8 d s
  | .jnoRel8 d => Sys2Proof.Machine.execJnoRel8 d s
  | .jbRel8 d => Sys2Proof.Machine.execJbRel8 d s
  | .jnbRel8 d => Sys2Proof.Machine.execJnbRel8 d s
  | .jzRel8 d => Sys2Proof.Machine.execJzRel8 d s
  | .jnzRel8 d => Sys2Proof.Machine.execJnzRel8 d s
  | .jbeRel8 d => Sys2Proof.Machine.execJbeRel8 d s
  | .jaRel8 d => Sys2Proof.Machine.execJaRel8 d s
  | .jsRel8 d => Sys2Proof.Machine.execJsRel8 d s
  | .jnsRel8 d => Sys2Proof.Machine.execJnsRel8 d s
  | .jpRel8 d => Sys2Proof.Machine.execJpRel8 d s
  | .jnpRel8 d => Sys2Proof.Machine.execJnpRel8 d s
  | .jlRel8 d => Sys2Proof.Machine.execJlRel8 d s
  | .jgeRel8 d => Sys2Proof.Machine.execJgeRel8 d s
  | .jleRel8 d => Sys2Proof.Machine.execJleRel8 d s
  | .jgRel8 d => Sys2Proof.Machine.execJgRel8 d s
  | .callRel16 d => Sys2Proof.Machine.execCallRel16 d s
  | .callFar off sel => Sys2Proof.Machine.execCallFar off sel s
  | .ret => Sys2Proof.Machine.execRet s
  | .retImm16 iw => Sys2Proof.Machine.execRetImm16 iw s
  | .retf => Sys2Proof.Machine.execRetf s
  | .retfImm16 iw => Sys2Proof.Machine.execRetfImm16 iw s
  | .movsb => Sys2Proof.Machine.execMovsb s
  | .cmpsb => Sys2Proof.Machine.execCmpsb s
  | .lodsb => Sys2Proof.Machine.execLodsb s
  | .intImm8 n => Sys2Proof.Machine.execIntImm8 n s
  | .clc => Sys2Proof.Machine.execClc s
  | .stc => Sys2Proof.Machine.execStc s
  | .cmc => Sys2Proof.Machine.execCmc s
  | .cli => Sys2Proof.Machine.execCli s
  | .sti => Sys2Proof.Machine.execSti s
  | .cld => Sys2Proof.Machine.execCld s
  | .std => Sys2Proof.Machine.execStd s
  | .esOverride => Sys2Proof.Machine.execEsOverride s
  | .csOverride => Sys2Proof.Machine.execCsOverride s
  | .ssOverride => Sys2Proof.Machine.execSsOverride s
  | .dsOverride => Sys2Proof.Machine.execDsOverride s
  | .fsOverride => Sys2Proof.Machine.execFsOverride s
  | .gsOverride => Sys2Proof.Machine.execGsOverride s
  | .repPrefix => Sys2Proof.Machine.execRepPrefix s

end Sys2Proof.Machine
end

