-- ==== Sys2Proof/Machine/Fetch.lean ====
section
/-! DEFINITION. Fetching an instruction at CS:IP (40_cycle.md R203), the prefix loop (30_encoding.md R130), what a Cycle
does around the execute phase (R202, R205, R207, R208), and how an instruction is placed where the next Cycle fetches
it. -/

namespace Sys2Proof.Machine

/-- Where the fetch stands: IP, and the bus after the reads so far. -/
structure FetchPos where
  ip : Word
  bus : Bus
deriving DecidableEq, Repr

/-- The linear address of offset `off` of the code segment (40_cycle.md R203). -/
def State.codeAddr (s : State) (off : Word) : Addr := s.segAddr .cs off

/-- `Fetch8` and `Fetch16` at CS:IP: one bus read each, and IP advances mod 2^16. A word at IP = 0xFFFF is one readWord,
so its second byte is at base + 0x10000 (40_cycle.md R203). -/
def State.fetcher (s : State) : Fetcher FetchPos where
  next8 p :=
    let a := s.codeAddr p.ip
    some (p.bus.readByte a, { ip := p.ip + 1, bus := p.bus.after (.readByte a) })
  next16 p :=
    let a := s.codeAddr p.ip
    let v := p.bus.readWord a
    some (loByte v, hiByte v, { ip := p.ip + 2, bus := p.bus.after (.readWord a) })

/-- What fetching and decoding a whole instruction gives: its prefix bytes and the instruction, or a decode failure; and
where the fetch stopped, with every byte fetched. -/
inductive Fetched (σ : Type) where
  | ok (prefixes : List Instr) (i : Instr) (c : Cursor σ)
  | illegal (c : Cursor σ)
deriving DecidableEq, Repr

/-- The prefix loop: with `room` prefixes still allowed, read prefix bytes up to the opcode and decode its instruction.
A prefix byte read with no room left is a decode failure (30_encoding.md R130, 60_exceptions.md R501). -/
def prefixLoop {σ : Type} (F : Fetcher σ) : Nat → Cursor σ → Fetched σ
  | room, c =>
    match decodeFrom F c with
    | .bad _ c1 => .illegal c1
    | .ok i c1 =>
      if i.isPrefix then
        match room with
        | 0 => .illegal c1
        | left + 1 =>
          match prefixLoop F left c1 with
          | .ok ps j c2 => .ok (i :: ps) j c2
          | .illegal c2 => .illegal c2
      else .ok [] i c1

/-- Fetch and decode the instruction at CS:IP (40_cycle.md R202: PrefixLoop, Lookup, DecodeOperands). -/
def State.fetchCycle (s : State) : Fetched FetchPos :=
  prefixLoop s.fetcher Config.prefixLimit { pos := { ip := s.ip, bus := s.bus }, seen := [] }

/-- The state after the fetch, with IP at the next instruction (40_cycle.md R204). -/
def State.fetched (s : State) (p : FetchPos) : State := { s with bus := p.bus }.setIp p.ip

/-- The post-instruction reset: ADS to DS, OVR and REP cleared (40_cycle.md R207); the event of the Cycle is over. -/
def State.postReset (s : State) : State := { s with ads := .ds, ovr := false, rep := false, signal := none }

/-- What a decode failure records: CS and IP of the first byte, and the bytes fetched (40_cycle.md R202). -/
def State.illegalAt (s : State) (bytes : List Byte) : IllegalOpcode :=
  { cs := (s.segs.get .cs).sel, ip := s.ip, bytes := bytes }

/-- DecodeFail: no architectural change, IP included; FAULT is latched and the record emitted; the instruction bytes were
read from the bus (40_cycle.md R202, R205, 60_exceptions.md R501). `s` is the state the Cycle began in. -/
def State.decodeFail (s : State) (c : Cursor FetchPos) : State :=
  let f := s.illegalAt c.seen
  let record : TraceRecord :=
    { cs := f.cs, ip := f.ip, bytes := f.bytes, instr := none, operands := [], event := .faulted f }
  { s.postReset with bus := c.pos.bus, fault := some f, trace := some record }

/-- The event of a Cycle that retires (40_cycle.md R209). -/
def State.event (s : State) : Event :=
  match s.signal with
  | none => .retired
  | some n => .interrupt n

/-- The end of a Cycle that retires: the trace record and the post-instruction reset (40_cycle.md R202, R207, R208).
`s` is the state after the execute phase, `start` the one the Cycle began in, `atExec` the one the execute phase began
in, whose registers give the operands. -/
def State.retire (s start atExec : State) (i : Instr) (bytes : List Byte) : State :=
  let record : TraceRecord := {
    cs := (start.segs.get .cs).sel
    ip := start.ip
    bytes := bytes
    instr := some i
    operands := i.operands atExec
    event := s.event }
  { s.postReset with trace := some record }

/-- Store bytes where they are fetched from offset `off` of CS on. The offset wraps at 0xFFFF for a byte fetch, while a
word fetch that starts at 0xFFFF takes its second byte at base + 0x10000 (40_cycle.md R203): the byte that follows
offset 0xFFFF is stored at both. -/
def State.storeCode (s : State) (off : Word) : List Byte → State
  | [] => s
  | b :: bs =>
    let s1 := s.writeByte (s.codeAddr off) b
    match bs with
    | [] => s1
    | b1 :: _ =>
      let s2 := if off = 0xFFFF then s1.writeByte (s1.codeAddr off + 1) b1 else s1
      s2.storeCode (off + 1) bs

end Sys2Proof.Machine
end

