-- ==== Sys2Proof/Machine/Cycle.lean ====
section
/-! DEFINITION. The Cycle of the sequencer (40_cycle.md R201, R202), with both what it returns (R209) and the state it
leaves. -/

namespace Sys2Proof.Machine

/-- Run the prefix bytes of an instruction, in order: each by its own meaning. -/
def runPrefixes : List Instr → State → Host.Outcome State Fault Refusal
  | [], s => .next s
  | p :: ps, s =>
    match exec p s with
    | .next t => runPrefixes ps t
    | .fault r => .fault r
    | .refused r => .refused r

/-- `Cycle()` (40_cycle.md R202): the outcome of R209 and the state the Cycle leaves. A request while the handler runs is
refused (60_exceptions.md R506). While FAULT is set the Cycle returns it and executes nothing (10_state.md R55). Else the
instruction is fetched and decoded; a decode failure latches FAULT, changes nothing else and returns Faulted (R205, R501);
else the execute phase runs with IP at the next instruction (R204), and the Cycle ends with the trace record and the
post-instruction reset (R207, R208). The prefixes take effect after the fetch: no fetch reads ADS, OVR or REP. -/
def cycle (s : State) : Host.Outcome (Event × State) Fault Refusal :=
  if s.inh then .refused .cycleInHandler
  else
    match s.fault with
    | some f => .next (.faulted f, s)
    | none =>
      match s.fetchCycle with
      | .illegal c => .next (.faulted (s.illegalAt c.seen), s.decodeFail c)
      | .ok ps i c =>
        match runPrefixes ps (s.fetched c.pos) with
        | .fault r => .fault r
        | .refused r => .refused r
        | .next atExec =>
          match exec i atExec with
          | .fault r => .fault r
          | .refused r => .refused r
          | .next t => .next (t.event, t.retire s atExec i c.seen)

/-- What a Cycle is to the host's interface: one that retires is a next state; one that returns Faulted is the fault
(40_cycle.md R209, 60_exceptions.md R501). -/
def outcomeOf : Event × State → Host.Outcome State Fault Refusal
  | (.retired, t) => .next t
  | (.interrupt _, t) => .next t
  | (.faulted f, _) => .fault (.illegalOpcode f)

end Sys2Proof.Machine
end

