-- ==== Sys2Proof/Machine/Step.lean ====
section
/-! DEFINITION. One step of the machine: one Cycle (40_cycle.md R201, R202). -/

namespace Sys2Proof.Machine

/-- One Cycle, as the host's interface sees it. -/
def step (s : State) : Host.Outcome State Fault Refusal :=
  match cycle s with
  | .next r => outcomeOf r
  | .fault r => .fault r
  | .refused r => .refused r

/-- `s` with an instruction of spec/opcode_table.json stored at CS:IP, where `step` fetches its next instruction. -/
def State.withFetchWord (s : State) (nbits w : Nat) : State := s.storeCode s.ip (tableWordBytes nbits w)

end Sys2Proof.Machine
end

