-- ==== Sys2Proof/Machine/Access.lean ====
section
/-! DEFINITION. The ACCESS interface: what the host may do to the state between Cycles (40_cycle.md R230 to R233,
10_state.md R32, R34, R42, R46, R48; 60_exceptions.md R503). None of this is part of a Cycle. -/

namespace Sys2Proof.Machine

/-- `get(slot, width)`, zero-extended to 32 bits; InvalidOperand records the slot and width requested (R230,
60_exceptions.md R500, R503). -/
def State.hostGetReg (s : State) (n : Slot) (width : ViewWidth) : Host.Outcome DWord Fault Refusal :=
  match width with
  | .low8 => .next ((s.regs.r8l n).setWidth 32)
  | .high8 => if n.hasHigh then .next ((s.regs.r8h n).setWidth 32) else .refused (.invalidOperand n width)
  | .word16 => .next ((s.regs.r16 n).setWidth 32)
  | .full32 => .next (s.regs.get n)

/-- `set(slot, width, v)`: the low bits of `v` go to the view; InvalidOperand changes nothing and does not set FAULT
(R230, R503). -/
def State.hostSetReg (s : State) (n : Slot) (width : ViewWidth) (v : DWord) : Host.Outcome State Fault Refusal :=
  match width with
  | .low8 => .next { s with regs := s.regs.setR8L n (v.setWidth 8) }
  | .high8 =>
    if n.hasHigh then .next { s with regs := s.regs.setR8H n (v.setWidth 8) }
    else .refused (.invalidOperand n width)
  | .word16 => .next { s with regs := s.regs.setR16 n (v.setWidth 16) }
  | .full32 => .next { s with regs := s.regs.set n v }

/-- `get(flagBit)` for any bit of the flags register (R46, R47, R230). -/
def State.hostGetFlag (s : State) (bit : Fin 32) : Bool := s.flags.getLsbD bit

/-- `set(flagBit, b)` for any bit of the flags register (R46, R47, R230). -/
def State.hostSetFlag (s : State) (bit : Fin 32) (b : Bool) : State := { s with flags := setBit s.flags bit b }

/-- IOPL as an integer 0 to 3 (10_state.md R48). -/
def State.iopl (s : State) : Nat := (s.flags.extractLsb' 12 2).toNat

/-- Write IOPL: bits 13:12 take the integer's value, every other bit is kept (10_state.md R48). -/
def State.hostSetIopl (s : State) (v : Fin 4) : State :=
  { s with flags := setBit (setBit s.flags 12 (v.val.testBit 0)) 13 (v.val.testBit 1) }

/-- `base()` of a segment register: never recomputed, always the cached value (10_state.md R41). -/
def State.hostSegBase (s : State) (r : SegReg) : Addr := (s.segs.get r).base

/-- `set(selector)` of a segment register: the only write path of the base cache (10_state.md R41, R42). -/
def State.hostSetSeg (s : State) (r : SegReg) (v : Word) : State := s.loadSeg r v

/-- The host reads FAULT (10_state.md R55). -/
def State.hostFault (s : State) : Option IllegalOpcode := s.fault

/-- The host's reset request: every piece of core state at its reset value, FAULT cleared, the bus with everything behind
it untouched (40_cycle.md R233, 70_reset_and_hazards.md R550). The last trace record and the model's counter are no core
state and stay. -/
def State.hostReset (s : State) : State := { State.reset with bus := s.bus, trace := s.trace, draws := s.draws }

/-- MEM as the argument it is (00_scope.md R6): the same core on another bus, of any content and with devices anywhere.
`State.reset.onBus b` is the machine right after construction on `b` (70_reset_and_hazards.md R550). -/
def State.onBus (s : State) (b : Bus) : State := { s with bus := b }

end Sys2Proof.Machine
end

