-- ==== Sys2Proof/Safety.lean ====
section
/-! DEFINITION. What a safe state and a safe run are, in the terms the statements use. -/

namespace Sys2Proof.Machine

/-- The base cache of every segment register is its selector times 16 (10_state.md R41, R42). -/
def SegFile.coherent (f : SegFile) : Prop := ∀ r, (f.get r).base = (f.get r).sel.setWidth 32 <<< 4

/-- An instruction boundary: ADS = DS, OVR = false, REP = false, INH = false (10_state.md R54, R56; 40_cycle.md R211),
and no event of a Cycle under way. -/
structure State.atBoundary (s : State) : Prop where
  ads : s.ads = .ds
  ovr : s.ovr = false
  rep : s.rep = false
  inh : s.inh = false
  signal : s.signal = none

/-- The invariant of the machine: canonical plain memory, a coherent base cache, and an instruction boundary. -/
structure Inv (s : State) : Prop where
  memory : Memory.wf s.bus.ram
  bases : s.segs.coherent
  boundary : s.atBoundary

/-- The state is ready for a Cycle: no handler runs and no fault is latched (60_exceptions.md R506, 10_state.md R55). -/
structure State.ready (s : State) : Prop where
  inh : s.inh = false
  fault : s.fault = none

/-- A safe run: `k` Cycles from `s` end in a next state, without a fault or a refusal. -/
def runsFor (k : Nat) (s : State) : Prop := ∃ t, Host.Core.run
  { State := State, Fault := Fault, Refusal := Refusal, step := step, reset := State.reset } k s = .next t

/-- The bytes at CS and the offset on, as the fetch reads them, are these fields: a byte field by `Fetch8`, a word field
by `Fetch16`, each read after the reads before it (40_cycle.md R203, 20_memory.md R89). -/
def State.holdsCode (s : State) : Word → List Field → Prop
  | _, [] => True
  | off, .byte b :: fs =>
    s.readByte (s.codeAddr off) = b ∧ (s.sawByte (s.codeAddr off)).holdsCode (off + 1) fs
  | off, .word v :: fs =>
    s.readWord (s.codeAddr off) = v ∧ (s.sawWord (s.codeAddr off)).holdsCode (off + 2) fs

/-- The state after the fetch of these fields at CS and the offset on: on plain memory, the state before. -/
def State.readCode (s : State) : Word → List Field → State
  | _, [] => s
  | off, .byte _ :: fs => (s.sawByte (s.codeAddr off)).readCode (off + 1) fs
  | off, .word _ :: fs => (s.sawWord (s.codeAddr off)).readCode (off + 2) fs

/-- Registers, segments, flags and memory are as before: what the spec calls architectural state (40_cycle.md R205). -/
structure sameArchitecture (s t : State) : Prop where
  regs : t.regs = s.regs
  segs : t.segs = s.segs
  flags : t.flags = s.flags
  ram : t.bus.ram = s.bus.ram
  devices : t.bus.devices = s.bus.devices

/-- The Cycle requested in `s` fails to decode after fetching these bytes (40_cycle.md R205, R209, 60_exceptions.md R501):
it returns IllegalOpcode with CS, IP and the bytes, changes no architectural state, and latches the fault. -/
structure decodeFails (bytes : List Byte) (s : State) : Prop where
  answer : step s = .fault (.illegalOpcode (s.illegalAt bytes))
  latch : ∃ t, cycle s = .next (.faulted (s.illegalAt bytes), t) ∧ sameArchitecture s t ∧ t.draws = s.draws ∧
    t.fault = some (s.illegalAt bytes)

/-- The upper halves of the register file, bits 31:16 of every slot (10_state.md R35). -/
def RegFile.sameUpper (r t : RegFile) : Prop :=
  ∀ n, (r.get n).extractLsb' 16 16 = (t.get n).extractLsb' 16 16

/-- The bytes an operation stores to (20_memory.md R83, R84). -/
def BusOp.stores : BusOp → List Addr
  | .readByte _ => []
  | .readWord _ => []
  | .writeByte a _ => [a]
  | .writeWord a _ => [a, a + 1]

/-- From `s` to `t` the bus saw these operations, in this order, and nothing else (20_memory.md R82, R83, R89); so every
byte of plain memory outside those stored to reads as before. -/
structure busDid (ops : List BusOp) (s t : State) : Prop where
  bus : t.bus = s.bus.run ops
  kept : ∀ a, a ∉ ops.flatMap BusOp.stores → s.bus.isDevice a = false → t.readByte a = s.readByte a

/-- Plain memory, in canonical form, stands at these addresses (20_memory.md R80, the default). -/
structure State.plainAt (s : State) (addrs : List Addr) : Prop where
  wf : Memory.wf s.bus.ram
  noDevice : ∀ a ∈ addrs, s.bus.isDevice a = false

/-- The flags register agrees on every bit outside `bits`. -/
def sameFlagsOutside (bits : List Flag) (s t : State) : Prop :=
  ∀ n, (∀ x ∈ bits, x.bit ≠ n) → t.flags.getLsbD n = s.flags.getLsbD n

/-- The state no instruction touches but a prefix or an interrupt: OVR, REP, FAULT, INH, the trace record and the
model's own fields. -/
structure sameSequencer (s t : State) : Prop where
  ovr : t.ovr = s.ovr
  rep : t.rep = s.rep
  fault : t.fault = s.fault
  inh : t.inh = s.inh
  trace : t.trace = s.trace
  signal : t.signal = s.signal
  draws : t.draws = s.draws

/-- The six status flags (41_alu.md R256). -/
def statusBits : List Flag := [.CF, .PF, .AF, .ZF, .SF, .OF]

/-- The status flags of `t` are the vector `fl` (41_alu.md R256). -/
structure statusIs (fl : StatusFlags) (t : State) : Prop where
  cf : t.flag .CF = fl.cf
  pf : t.flag .PF = fl.pf
  af : t.flag .AF = fl.af
  zf : t.flag .ZF = fl.zf
  sf : t.flag .SF = fl.sf
  ovf : t.flag .OF = fl.ovf

/-- The linear address of a memory operand: its offset in the segment the decoder selects (30_encoding.md R127 to R129,
20_memory.md R85). -/
def State.memAddr (s : State) (m : MemForm) : Addr := s.segAddr (s.memSeg m) (m.offset s.regs)

/-- ADS after the operand is decoded (30_encoding.md R129). -/
def State.rmSeg {R : Type} (s : State) : RM R → SegReg
  | .reg _ => s.ads
  | .mem m => s.memSeg m

/-- The value of a byte operand (40_cycle.md R206). -/
def State.byteAt (s : State) : RM Reg8 → Byte
  | .reg r => s.regs.get8 r
  | .mem m => s.readByte (s.memAddr m)

/-- The value of a word operand (40_cycle.md R206). -/
def State.wordAt (s : State) : RM Reg16 → Word
  | .reg r => s.regs.get16 r
  | .mem m => s.readWord (s.memAddr m)

/-- The bus reads of reading a byte operand (40_cycle.md R206). -/
def State.reads8 (s : State) : RM Reg8 → List BusOp
  | .reg _ => []
  | .mem m => [.readByte (s.memAddr m)]

/-- The bus reads of reading a word operand (40_cycle.md R206). -/
def State.reads16 (s : State) : RM Reg16 → List BusOp
  | .reg _ => []
  | .mem m => [.readWord (s.memAddr m)]

/-- What writing `v` to a byte operand leaves, after the bus operations `before`: that register view, or the one byte at
the operand's address, and no other register and no other byte of memory. -/
def byteWritten (e : RM Reg8) (v : Byte) (before : List BusOp) (s t : State) : Prop :=
  match e with
  | .reg r => t.regs = s.regs.set8 r v ∧ busDid before s t
  | .mem m => t.regs = s.regs ∧ busDid (before ++ [.writeByte (s.memAddr m) v]) s t ∧
      (s.plainAt [s.memAddr m] → t.readByte (s.memAddr m) = v)

/-- What writing `v` to a word operand leaves, after the bus operations `before`: that register view, or the two bytes
from the operand's address on, low byte first, and no other register and no other byte of memory. -/
def wordWritten (e : RM Reg16) (v : Word) (before : List BusOp) (s t : State) : Prop :=
  match e with
  | .reg r => t.regs = s.regs.set16 r v ∧ busDid before s t
  | .mem m => t.regs = s.regs ∧ busDid (before ++ [.writeWord (s.memAddr m) v]) s t ∧
      (s.plainAt [s.memAddr m, s.memAddr m + 1] →
        t.readByte (s.memAddr m) = loByte v ∧ t.readByte (s.memAddr m + 1) = hiByte v)

/-- Destination, source value, bus reads and ADS afterwards of the byte forms of a two-operand instruction (41_alu.md
R255). -/
def State.aluByte (s : State) : AluForm → Option (RM Reg8 × Byte × List BusOp × SegReg)
  | .rm8r8 e g => some (e, s.regs.get8 g, s.reads8 e, s.rmSeg e)
  | .rm16r16 _ _ => none
  | .r8rm8 g e => some (.reg g, s.byteAt e, s.reads8 e, s.rmSeg e)
  | .r16rm16 _ _ => none
  | .alImm8 ib => some (.reg .al, ib, [], s.ads)
  | .axImm16 _ => none
  | .rm8Imm8 e ib => some (e, ib, s.reads8 e, s.rmSeg e)
  | .rm16Imm16 _ _ => none
  | .rm16Imm8 _ _ => none

/-- Destination, source value, bus reads and ADS afterwards of the word forms of a two-operand instruction (41_alu.md
R255). -/
def State.aluWord (s : State) : AluForm → Option (RM Reg16 × Word × List BusOp × SegReg)
  | .rm8r8 _ _ => none
  | .rm16r16 e g => some (e, s.regs.get16 g, s.reads16 e, s.rmSeg e)
  | .r8rm8 _ _ => none
  | .r16rm16 g e => some (.reg g, s.wordAt e, s.reads16 e, s.rmSeg e)
  | .alImm8 _ => none
  | .axImm16 iw => some (.reg .ax, iw, [], s.ads)
  | .rm8Imm8 _ _ => none
  | .rm16Imm16 e iw => some (e, iw, s.reads16 e, s.rmSeg e)
  | .rm16Imm8 e ib => some (e, ib.signExtend 16, s.reads16 e, s.rmSeg e)

/-- Interrupt `n` is signalled in `s` and `t` is what the handler leaves (60_exceptions.md R504 to R506): the core
pushes nothing and changes no register, segment, flag or byte of its own; each is what the handler made it. -/
structure interruptTaken (n : Byte) (s t : State) : Prop where
  regs : t.regs = (Config.handler s.draws n s.regs s.segs s.flags s.bus).regs
  segs : t.segs = .load (Config.handler s.draws n s.regs s.segs s.flags s.bus).sels
  flags : t.flags = (Config.handler s.draws n s.regs s.segs s.flags s.bus).flags
  bus : t.bus = s.bus.run (Config.handler s.draws n s.regs s.segs s.flags s.bus).traffic
  inh : t.inh = false
  signal : t.signal = some n
  draws : t.draws = s.draws + 1
  ovr : t.ovr = s.ovr
  rep : t.rep = s.rep
  fault : t.fault = s.fault
  trace : t.trace = s.trace

/-- The segment a segment-override prefix selects (30_encoding.md R130). -/
def overrideOf : Instr → Option SegReg
  | .esOverride => some .es
  | .csOverride => some .cs
  | .ssOverride => some .ss
  | .dsOverride => some .ds
  | .fsOverride => some .fs
  | .gsOverride => some .gs
  | _ => none

/-- The segment the last override of a prefix sequence selects, `r` when there is none (30_encoding.md R130). -/
def lastOverride (r : SegReg) : List Instr → SegReg
  | [] => r
  | p :: ps => lastOverride ((overrideOf p).getD r) ps

/-- The bytes marked "—" in the opcode map of 30_encoding.md R133, as ranges. -/
def unadmittedRanges : List (Nat × Nat) :=
  [(0x0F, 0x0F), (0x27, 0x27), (0x2F, 0x2F), (0x37, 0x37), (0x3F, 0x4F), (0x60, 0x63), (0x66, 0x6F), (0x82, 0x82),
   (0x84, 0x87), (0x8F, 0x8F), (0x91, 0x99), (0x9B, 0x9F)] ++
  [(0xA5, 0xA5), (0xA7, 0xAB), (0xAD, 0xAF), (0xC0, 0xC1), (0xC4, 0xC5), (0xC8, 0xC9), (0xCC, 0xCC), (0xCE, 0xE7),
   (0xEC, 0xF2), (0xF4, 0xF4), (0xFE, 0xFF)]

/-- The byte is marked "—" in the opcode map (30_encoding.md R133). -/
def unadmitted (b : Byte) : Bool := unadmittedRanges.any fun r => r.1 ≤ b.toNat && b.toNat ≤ r.2

/-- The ModRM byte `m` is illegal for the opcode byte `op` (30_encoding.md R134). -/
def modrmIllegal (op m : Byte) : Bool :=
  let mod := m.toNat / 64
  let reg := m.toNat / 8 % 8
  (op == 0x8C && (reg == 6 || reg == 7)) ||
  (op == 0x8E && (reg == 1 || reg == 6 || reg == 7)) ||
  (op == 0x8D && mod == 3) ||
  ((op == 0xC6 || op == 0xC7) && reg != 0) ||
  (op == 0xF6 && reg != 4) ||
  (op == 0xF7 && reg != 4 && reg != 6)

/-- The condition of a conditional jump, row by row of 45_control.md R394. -/
def jumpTaken (c : Cond) (s : State) : Prop :=
  match c with
  | .o => s.flag .OF = true
  | .no => s.flag .OF = false
  | .b => s.flag .CF = true
  | .nb => s.flag .CF = false
  | .z => s.flag .ZF = true
  | .nz => s.flag .ZF = false
  | .be => s.flag .CF = true ∨ s.flag .ZF = true
  | .a => s.flag .CF = false ∧ s.flag .ZF = false
  | .s => s.flag .SF = true
  | .ns => s.flag .SF = false
  | .p => s.flag .PF = true
  | .np => s.flag .PF = false
  | .l => s.flag .SF ≠ s.flag .OF
  | .ge => s.flag .SF = s.flag .OF
  | .le => s.flag .ZF = true ∨ s.flag .SF ≠ s.flag .OF
  | .g => s.flag .ZF = false ∧ s.flag .SF = s.flag .OF

/-- The condition code of a conditional jump, bits 3:0 of its opcode (45_control.md R394). -/
def condCode : Cond → Nat
  | .o => 0x0
  | .no => 0x1
  | .b => 0x2
  | .nb => 0x3
  | .z => 0x4
  | .nz => 0x5
  | .be => 0x6
  | .a => 0x7
  | .s => 0x8
  | .ns => 0x9
  | .p => 0xA
  | .np => 0xB
  | .l => 0xC
  | .ge => 0xD
  | .le => 0xE
  | .g => 0xF

/-- The number of a two-operand operation (41_alu.md R255). -/
def aluNumber : AluOp → Nat
  | .add => 0
  | .or => 1
  | .adc => 2
  | .sbb => 3
  | .and => 4
  | .sub => 5
  | .xor => 6
  | .cmp => 7

/-- The form table of 41_alu.md R255: opcode byte, ModRM operand and immediate of each form. -/
def aluEncoding (op : AluOp) (f : AluForm) : List Field :=
  let first (k : Nat) : Byte := BitVec.ofNat 8 (aluNumber op * 8 + k)
  let g : BitVec 3 := BitVec.ofNat 3 (aluNumber op)
  match f with
  | .rm8r8 e r => fieldsRM (first 0) r.code (e.map Reg8.code)
  | .rm16r16 e r => fieldsRM (first 1) r.code (e.map Reg16.code)
  | .r8rm8 r e => fieldsRM (first 2) r.code (e.map Reg8.code)
  | .r16rm16 r e => fieldsRM (first 3) r.code (e.map Reg16.code)
  | .alImm8 ib => [.byte (first 4), .byte ib]
  | .axImm16 iw => [.byte (first 5), .word iw]
  | .rm8Imm8 e ib => fieldsRM 0x80 g (e.map Reg8.code) ++ [.byte ib]
  | .rm16Imm16 e iw => fieldsRM 0x81 g (e.map Reg16.code) ++ [.word iw]
  | .rm16Imm8 e ib => fieldsRM 0x83 g (e.map Reg16.code) ++ [.byte ib]

/-- The segment registers an instruction may write (10_state.md R43). -/
def mayWriteSegment (i : Instr) (r : SegReg) : Prop :=
  match i with
  | .movSregRm16 sr _ => r = sr ∧ r ≠ .cs
  | .popEs => r = .es
  | .popSs => r = .ss
  | .popDs => r = .ds
  | .jmpFar _ _ => r = .cs
  | .callFar _ _ => r = .cs
  | .retf => r = .cs
  | .retfImm16 _ => r = .cs
  | _ => False

/-- An index register moved by `k` units: down when DF is set, else up, mod 2^16 (46_string.md R430). -/
def State.stepped (s : State) (x : Word) (k : Nat) : Word :=
  if s.flag .DF then x - BitVec.ofNat 16 k else x + BitVec.ofNat 16 k

/-- The value of a base register sum, before it wraps (30_encoding.md R128). -/
def baseSum (b : Base) (r : RegFile) : Nat :=
  match b with
  | .bxsi => (r.r16 .bx).toNat + (r.r16 .si).toNat
  | .bxdi => (r.r16 .bx).toNat + (r.r16 .di).toNat
  | .bpsi => (r.r16 .bp).toNat + (r.r16 .si).toNat
  | .bpdi => (r.r16 .bp).toNat + (r.r16 .di).toNat
  | .si => (r.r16 .si).toNat
  | .di => (r.r16 .di).toNat
  | .bp => (r.r16 .bp).toNat
  | .bx => (r.r16 .bx).toNat

end Sys2Proof.Machine
end

