-- ==== Sys2Proof/Certificates/Slice0/Obligations.lean ====
section
/-! DEFINITION. The statements about the model, for the provers. Each docstring names the rule of spec/ it formalises or
rests on. -/

open Sys2Proof Sys2Proof.Machine

/-! ## The Cycle -/

/-- R550, R551: reset, at construction on any bus and on the host's request, gives every register, segment, flag and
sequencer status its reset value, and does not touch memory. -/
def Obligations.ResetSetsEveryPieceOfState : Prop :=
  ∀ (s t : State) (b : Bus), t = State.reset.onBus b ∨ (t = s.hostReset ∧ b = s.bus) →
    (∀ n, t.regs.get n = 0) ∧
    (∀ r, (t.segs.get r).sel = 0 ∧ (t.segs.get r).base = 0) ∧
    (∀ n, t.flags.getLsbD n = decide (n = Flag.bit .IF ∨ n = Flag.bit .ZF)) ∧
    t.ads = .ds ∧ t.ovr = false ∧ t.rep = false ∧ t.fault = none ∧ t.inh = false ∧
    t.bus = b ∧ t.segAddr .cs t.ip = 0

/-- The state after reset meets the invariant (R54, R58, R42), and so does reset on any bus whose plain memory is in
canonical form. -/
def Obligations.ResetMeetsTheInvariant : Prop :=
  Machine.Inv State.reset ∧ ∀ b : Bus, Memory.wf b.ram → Machine.Inv (State.reset.onBus b)

/-- Every Cycle keeps the invariant: canonical memory, the base cache `sel << 4` (R42), an instruction boundary (R54);
through an interrupt handler's work, and in the state a decode failure or a latched fault leaves. From every state that
meets it. -/
def Obligations.EveryCycleKeepsTheInvariant : Prop :=
  ∀ s, Machine.Inv s → (∀ t, step s = .next t → Machine.Inv t) ∧ ∀ e t, cycle s = .next (e, t) → Machine.Inv t

/-- R54: at every instruction boundary, that is after every Cycle whatever state it began in (one that fails to decode
among them; a Cycle that only reports a latched fault changes nothing), and at reset. -/
def Obligations.EveryCycleEndsAtAnInstructionBoundary : Prop :=
  (∀ s t, step s = .next t → t.atBoundary) ∧
  (∀ s e t, s.fault = none → cycle s = .next (e, t) → t.atBoundary) ∧ State.reset.atBoundary

/-- R201, R209, R210: a Cycle that is requested when no handler runs and no fault is latched always completes, with an
outcome and a state; as a step it is a next state unless decoding fails; and every instruction, prefix bytes included,
completes in every state. -/
def Obligations.EveryReadyCycleCompletes : Prop :=
  (∀ s, s.ready → (∃ e t, cycle s = .next (e, t)) ∧
    ((∀ c, s.fetchCycle ≠ .illegal c) → ∃ t, step s = .next t)) ∧
  ∀ i s, ∃ t, exec i s = .next t

/-- R202, R204, R207, R208: where the bytes at CS:IP, as the fetch reads them, encode up to 15 prefixes and a well-formed
instruction, `step` runs the prefixes and then `exec` of the instruction with IP at the next instruction, and adds the
post-instruction reset and the trace record. The model's own part in it: that the prefixes run after the whole fetch
(notes/assumptions/9.md and 10.md); that the imm16, moffs and ptr16:16 words are fetched by Fetch16, so that one at IP =
0xFFFF takes its second byte beyond the segment (14.md); the record's operand list (7.md); the field `signal` behind its
event (8.md). -/
def Obligations.StepRunsTheDecodedInstruction : Prop :=
  ∀ (s : State) (ps : List Instr) (i : Instr), s.ready →
    (∀ p ∈ ps, p.isPrefix = true) → ps.length ≤ 15 → i.isPrefix = false → i.wellFormed = true →
    s.holdsCode s.ip ((ps ++ [i]).flatMap encodeFields) →
    ∀ atExec t,
      runPrefixes ps ((s.readCode s.ip ((ps ++ [i]).flatMap encodeFields)).setIp
        (s.ip + BitVec.ofNat 16 ((ps ++ [i]).flatMap encode).length)) = .next atExec →
      exec i atExec = .next t →
      step s = .next { t with
        ads := .ds
        ovr := false
        rep := false
        signal := none
        trace := some {
          cs := (s.segs.get .cs).sel
          ip := s.ip
          bytes := (ps ++ [i]).flatMap encode
          instr := some i
          operands := i.operands atExec
          event := match t.signal with
            | none => .retired
            | some n => .interrupt n } }

/-- R130, R131: each segment-override prefix sets ADS and OVR, the repeat prefix sets REP, and nothing else changes; of
several overrides the last one wins. -/
def Obligations.PrefixesSetTheSegmentAndTheRepeatFlag : Prop :=
  (∀ s, exec .esOverride s = .next { s with ads := .es, ovr := true } ∧
    exec .csOverride s = .next { s with ads := .cs, ovr := true } ∧
    exec .ssOverride s = .next { s with ads := .ss, ovr := true } ∧
    exec .dsOverride s = .next { s with ads := .ds, ovr := true } ∧
    exec .fsOverride s = .next { s with ads := .fs, ovr := true } ∧
    exec .gsOverride s = .next { s with ads := .gs, ovr := true } ∧
    exec .repPrefix s = .next { s with rep := true }) ∧
  ∀ (ps : List Instr) (s : State), (∀ p ∈ ps, p.isPrefix = true) →
    runPrefixes ps s = .next { s with
      ads := lastOverride s.ads ps
      ovr := s.ovr || ps.any fun p => (overrideOf p).isSome
      rep := s.rep || ps.any fun p => p == .repPrefix }

/-! ## Decode failure, the fault latch, the handler -/

/-- R205, R209, R501: a ready Cycle whose fetch ends in a decode failure returns Faulted: the step is the fault, and the
state the Cycle leaves has every register (IP too), segment, flag and memory byte as before, and FAULT latched. R202:
the fault, the latch and the trace record hold CS and IP of the first byte and the bytes the fetch read, one `Fetch8` of
memory after another from CS:IP on. (The host's outcome carries no state; that `cycle` gives it is
notes/assumptions/5.md.) -/
def Obligations.DecodeFailureChangesNoArchitecturalState : Prop :=
  ∀ (s : State) (c : Cursor FetchPos), s.ready → s.fetchCycle = .illegal c →
    let f : IllegalOpcode := { cs := (s.segs.get .cs).sel, ip := s.ip, bytes := c.seen }
    s.holdsCode s.ip (c.seen.map .byte) ∧ step s = .fault (.illegalOpcode f) ∧
    ∃ t, cycle s = .next (.faulted f, t) ∧ sameArchitecture s t ∧ t.draws = s.draws ∧
      t.bus = (s.readCode s.ip (c.seen.map .byte)).bus ∧ t.fault = some f ∧
      t.trace = some { cs := f.cs, ip := f.ip, bytes := c.seen, instr := none, operands := [], event := .faulted f }

/-- R133, R135, R501: a byte marked "—" in the opcode map, F0, F2, 66, 67 and 0F among them, is rejected as an opcode, and
no other byte is; a Cycle that meets one, first or after up to 15 prefix bytes (R130), fails to decode with the prefix
bytes and that byte recorded. -/
def Obligations.UnadmittedOpcodesRaiseIllegalOpcode : Prop :=
  (∀ b rest op, decode (b :: rest) = .error (.illegalOpcode op) ↔ op = b ∧ unadmitted b = true) ∧
  ∀ (s : State) (ps : List Instr) (b : Byte), s.ready → (∀ p ∈ ps, p.isPrefix = true) → ps.length ≤ 15 →
    unadmitted b = true → s.holdsCode s.ip (ps.flatMap encodeFields ++ [.byte b]) →
    decodeFails (ps.flatMap encode ++ [b]) s

/-- R134, R501: each opcode takes exactly the ModRM values of the table; a Cycle that meets any other, the opcode first
or after up to 15 prefix bytes (R130), fails to decode with the prefix bytes, the opcode and the ModRM byte recorded, so
before any displacement or immediate is fetched. -/
def Obligations.IllegalModRMValuesRaiseIllegalOpcode : Prop :=
  (∀ op m rest op' m', decode (op :: m :: rest) = .error (.illegalModRM op' m') ↔
    op' = op ∧ m' = m ∧ modrmIllegal op m = true) ∧
  ∀ (s : State) (ps : List Instr) (op m : Byte), s.ready → (∀ p ∈ ps, p.isPrefix = true) → ps.length ≤ 15 →
    modrmIllegal op m = true → s.holdsCode s.ip (ps.flatMap encodeFields ++ [.byte op, .byte m]) →
    decodeFails (ps.flatMap encode ++ [op, m]) s

/-- R130, R501: a 16th prefix byte is a decode failure, with the 16 bytes recorded and nothing changed. -/
def Obligations.TheSixteenthPrefixRaisesIllegalOpcode : Prop :=
  ∀ (s : State) (ps : List Instr), s.ready → ps.length = 16 → (∀ p ∈ ps, p.isPrefix = true) →
    s.holdsCode s.ip (ps.flatMap encodeFields) → decodeFails (ps.flatMap encode) s

/-- R55, R501: a Cycle that returns a fault leaves it latched; every Cycle after it returns that fault again and executes
nothing, whatever stands at CS:IP; no Cycle that completes leaves a fault latched; the host's reset clears the latch; it
is none at reset. -/
def Obligations.ALatchedFaultStopsEveryCycleUntilReset : Prop :=
  (∀ s t f, cycle s = .next (.faulted f, t) → step s = .fault (.illegalOpcode f) ∧ t.fault = some f ∧
    cycle t = .next (.faulted f, t) ∧ step t = .fault (.illegalOpcode f)) ∧
  (∀ s t, step s = .next t → t.fault = none) ∧
  (∀ s : State, s.hostReset.fault = none) ∧ State.reset.fault = none

/-- R506: a Cycle requested while the handler runs is refused; R56: no Cycle ends with INH true. -/
def Obligations.ACycleDuringTheHandlerIsRefused : Prop :=
  (∀ s, s.inh = true → cycle s = .refused .cycleInHandler ∧ step s = .refused .cycleInHandler) ∧
  (∀ s t, step s = .next t → t.inh = false) ∧ ∀ s e t, cycle s = .next (e, t) → t.inh = false

/-! ## Encoding -/

/-- Decode and encode agree: every well-formed instruction, with every operand at every value, is read back from its
encoding, whatever bytes follow (R120 to R134). -/
def Obligations.DecodeReadsBackEveryEncoding : Prop :=
  ∀ i rest, i.wellFormed = true → decode (encode i ++ rest) = .ok (i, rest)

/-- The other direction: what the decoder accepts is well formed, and the bytes it read are its encoding; so no two
instructions share an encoding and no bit of an accepted one is ignored. -/
def Obligations.DecodedBytesAreTheEncoding : Prop :=
  ∀ bs i rest, decode bs = .ok (i, rest) → i.wellFormed = true ∧ bs = encode i ++ rest

/-- Words written out from the spec's encodings (examples of R260 to R467, L2 vectors) decode to what they stand for. -/
def Obligations.WordsOfTheSpecDecode : Prop :=
  decode [0x04, 0x50] = .ok (.addAlImm8 0x50, []) ∧
  decode [0x81, 0x87, 0x34, 0x12, 0x78, 0x56] = .ok (.addRm16Imm16 (.mem (.disp16 .bx 0x1234)) 0x5678, []) ∧
  decode [0xF7, 0xF1] = .ok (.divRm16 (.reg .cx), []) ∧
  decode [0x8A, 0x46, 0x04] = .ok (.movR8Rm8 .al (.mem (.disp8 .bp 4)), []) ∧
  decode [0x8D, 0x40, 0x05] = .ok (.leaR16M .ax (.disp8 .bxsi 5), []) ∧
  decode [0x5B] = .ok (.popR16 .bx, []) ∧
  decode [0x9A, 0x34, 0x12, 0x00, 0x30] = .ok (.callFar 0x1234 0x3000, []) ∧
  decode [0xF3, 0xA4] = .ok (.repPrefix, [0xA4]) ∧
  decode [0xCD, 0x21] = .ok (.intImm8 0x21, [])

/-- R123: an instruction without prefixes has 1 to 6 bytes, a prefix has 1, and 6 is reached by 81 /n with mod 2. -/
def Obligations.AnEncodingHasOneToSixBytes : Prop :=
  (∀ i, 1 ≤ (encode i).length ∧ (encode i).length ≤ 6 ∧ (i.isPrefix = true → (encode i).length = 1)) ∧
  ∀ b d iw, (encode (.addRm16Imm16 (.mem (.disp16 b d)) iw)).length = 6

/-! ## What no instruction does -/

/-- R35: no instruction changes bits 31:16 of any slot. (A signalled interrupt runs the handler, which may: `draws`
counts the handler's calls.) -/
def Obligations.NoInstructionChangesUpperHalves : Prop :=
  ∀ i s t, exec i s = .next t → t.draws = s.draws → RegFile.sameUpper s.regs t.regs

/-- R47: the core writes only CF, PF, AF, ZF, SF, IF, DF and OF; R49: IF only by CLI and STI, DF only by CLD and STD. -/
def Obligations.OnlyTheListedFlagsAreWritten : Prop :=
  ∀ i s t, exec i s = .next t → t.draws = s.draws →
    sameFlagsOutside [.CF, .PF, .AF, .ZF, .SF, .IF, .DF, .OF] s t ∧
    (t.flag .IF ≠ s.flag .IF → i = .cli ∨ i = .sti) ∧
    (t.flag .DF ≠ s.flag .DF → i = .cld ∨ i = .std)

/-- R43: only MOV Sreg, POP ES/SS/DS and the far transfers write a segment register, each only its own; nothing but a
far transfer writes CS. -/
def Obligations.OnlyTheListedInstructionsWriteSegments : Prop :=
  ∀ i s t, i.wellFormed = true → exec i s = .next t → t.draws = s.draws →
    ∀ r, t.segs.get r ≠ s.segs.get r → mayWriteSegment i r

/-- R49, R500, R507: only INT and DIV ever signal an interrupt; no instruction but a prefix changes OVR or REP, and none
changes FAULT, INH or the trace record. -/
def Obligations.OnlyIntAndDivSignalAnInterrupt : Prop :=
  ∀ i s t, i.isPrefix = false → s.inh = false → exec i s = .next t →
    t.ovr = s.ovr ∧ t.rep = s.rep ∧ t.fault = s.fault ∧ t.inh = false ∧ t.trace = s.trace ∧
    (t.draws = s.draws → t.signal = s.signal) ∧
    (t.draws ≠ s.draws → (∃ n, i = .intImm8 n) ∨ ∃ e, i = .divRm16 e)

/-- R42, R80: every instruction keeps the base cache and the canonical form of memory, from any state that has them;
which addresses are devices is the platform's and no instruction's, and what the devices have seen only grows. -/
def Obligations.EveryInstructionKeepsBasesAndMemory : Prop :=
  ∀ i s t, exec i s = .next t →
    (s.segs.coherent → t.segs.coherent) ∧ (Memory.wf s.bus.ram → Memory.wf t.bus.ram) ∧
    t.bus.devices = s.bus.devices ∧ ∃ more, t.bus.log = s.bus.log ++ more

/-! ## ALU -/

/-- R252 with R260, R262: ADD and ADC compute the sum on unbounded integers, at both widths; CF is an unsigned result
beyond the width, OF a signed one, AF the carry out of bit 3; OF is also msb of (dst XOR res) AND (src XOR res). -/
def Obligations.AdditionFlagsFollowTheExactSum : Prop :=
  ∀ (w : Nat), w = 8 ∨ w = 16 → ∀ (op : AluOp), op = .add ∨ op = .adc → ∀ (cf : Bool) (a b : BitVec w),
    let c := (op == .adc && cf).toNat
    let r := op.prim cf a b
    r.1.toNat = (a.toNat + b.toNat + c) % 2 ^ w ∧
    (r.2.cf = true ↔ 2 ^ w ≤ a.toNat + b.toNat + c) ∧
    (r.2.ovf = true ↔
      ¬ (-2 ^ (w - 1) ≤ a.toInt + b.toInt + c ∧ a.toInt + b.toInt + c ≤ 2 ^ (w - 1) - 1)) ∧
    r.2.ovf = ((a ^^^ r.1) &&& (b ^^^ r.1)).msb ∧
    (r.2.af = true ↔ 16 ≤ a.toNat % 16 + b.toNat % 16 + c) ∧
    (r.2.zf = true ↔ r.1.toNat = 0) ∧ r.2.sf = r.1.getLsbD (w - 1) ∧
    (r.2.pf = true ↔ ((List.range 8).countP fun n => r.1.getLsbD n) % 2 = 0)

/-- R253 with R263, R265, R267 and C1: SUB, SBB and CMP compute the difference; CF is a borrow, also when SBB has dst =
src and a borrow in; OF holds exactly when the signed difference leaves the range; AF is the borrow into bit 4. -/
def Obligations.SubtractionFlagsFollowTheExactDifference : Prop :=
  ∀ (w : Nat), w = 8 ∨ w = 16 → ∀ (op : AluOp), op = .sub ∨ op = .sbb ∨ op = .cmp →
    ∀ (cf : Bool) (a b : BitVec w),
    let c := (op == .sbb && cf).toNat
    let r := op.prim cf a b
    (r.1.toNat : Int) = ((a.toNat : Int) - b.toNat - c) % 2 ^ w ∧
    (r.2.cf = true ↔ a.toNat < b.toNat + c) ∧
    (r.2.ovf = true ↔
      ¬ (-2 ^ (w - 1) ≤ a.toInt - b.toInt - c ∧ a.toInt - b.toInt - c ≤ 2 ^ (w - 1) - 1)) ∧
    (r.2.af = true ↔ a.toNat % 16 < b.toNat % 16 + c) ∧
    (r.2.zf = true ↔ r.1.toNat = 0) ∧ r.2.sf = r.1.getLsbD (w - 1) ∧
    (r.2.pf = true ↔ ((List.range 8).countP fun n => r.1.getLsbD n) % 2 = 0)

/-- R254 with R251, R261, R264, R266: AND, OR and XOR work bit by bit and clear CF, OF and AF. -/
def Obligations.LogicalFlagsFollowTheBitwiseResult : Prop :=
  ∀ (w : Nat), w = 8 ∨ w = 16 → ∀ (cf : Bool) (a b : BitVec w),
    (∀ n, (AluOp.and.prim cf a b).1.getLsbD n = (a.getLsbD n && b.getLsbD n) ∧
      (AluOp.or.prim cf a b).1.getLsbD n = (a.getLsbD n || b.getLsbD n) ∧
      (AluOp.xor.prim cf a b).1.getLsbD n = (a.getLsbD n ^^ b.getLsbD n)) ∧
    ∀ (op : AluOp), op = .and ∨ op = .or ∨ op = .xor →
      let r := op.prim cf a b
      r.2.cf = false ∧ r.2.ovf = false ∧ r.2.af = false ∧
      (r.2.zf = true ↔ r.1.toNat = 0) ∧ r.2.sf = r.1.getLsbD (w - 1) ∧
      (r.2.pf = true ↔ ((List.range 8).countP fun n => r.1.getLsbD n) % 2 = 0)

/-- R255: the nine encodings of each of the eight operations: op*8+0 to op*8+5, and /op of 80, 81 and 83. -/
def Obligations.AluFormsFollowTheFormTable : Prop :=
  ∀ (op : AluOp) (f : AluForm), encodeFields (.alu op f) = aluEncoding op f

/-- R256, byte forms (op*8+0, +2, +4 and 80 /op) of all eight operations: the instruction completes; the destination, a
register view or the byte at the operand's address, takes the result unless the operation is CMP; the six status flags
take the primitive's vector; nothing else changes. -/
def Obligations.ByteAluInstructionsWriteResultAndFlags : Prop :=
  ∀ (op : AluOp) (f : AluForm) (s : State) (dst : RM Reg8) (b : Byte)
    (reads : List BusOp) (seg : SegReg), s.aluByte f = some (dst, b, reads, seg) →
    ∃ t, exec (.alu op f) s = .next t ∧
      statusIs (op.prim (s.flag .CF) (s.byteAt dst) b).2 t ∧ sameFlagsOutside statusBits s t ∧
      t.segs = s.segs ∧ t.ads = seg ∧ sameSequencer s t ∧
      (op = .cmp → t.regs = s.regs ∧ busDid reads s t) ∧
      (op ≠ .cmp → byteWritten dst (op.prim (s.flag .CF) (s.byteAt dst) b).1 reads s t)

/-- R256, word forms (op*8+1, +3, +5, 81 /op and 83 /op with its sign-extended immediate), as the byte forms. -/
def Obligations.WordAluInstructionsWriteResultAndFlags : Prop :=
  ∀ (op : AluOp) (f : AluForm) (s : State) (dst : RM Reg16) (b : Word)
    (reads : List BusOp) (seg : SegReg), s.aluWord f = some (dst, b, reads, seg) →
    ∃ t, exec (.alu op f) s = .next t ∧
      statusIs (op.prim (s.flag .CF) (s.wordAt dst) b).2 t ∧ sameFlagsOutside statusBits s t ∧
      t.segs = s.segs ∧ t.ads = seg ∧ sameSequencer s t ∧
      (op = .cmp → t.regs = s.regs ∧ busDid reads s t) ∧
      (op ≠ .cmp → wordWritten dst (op.prim (s.flag .CF) (s.wordAt dst) b).1 reads s t)

/-- R300: MUL r/m8. AX takes the exact product AL * E; CF and OF are set exactly when its high byte is not 0; every
other flag, register, segment and memory byte is unchanged. -/
def Obligations.MulByteWritesTheExactProduct : Prop :=
  ∀ (e : RM Reg8) (s : State), encodeFields (.mulRm8 e) = fieldsRM 0xF6 4 (e.map Reg8.code) ∧
    ∃ t, exec (.mulRm8 e) s = .next t ∧
    let p := (s.regs.get8 .al).toNat * (s.byteAt e).toNat
    (t.get16 .ax).toNat = p ∧ t.regs = s.regs.set16 .ax (BitVec.ofNat 16 p) ∧
    (t.flag .CF = true ↔ p / 256 ≠ 0) ∧ (t.flag .OF = true ↔ p / 256 ≠ 0) ∧
    sameFlagsOutside [.CF, .OF] s t ∧ t.segs = s.segs ∧ t.ads = s.rmSeg e ∧
    busDid (s.reads8 e) s t ∧ sameSequencer s t

/-- R301: MUL r/m16. DX:AX takes the exact product AX * E; CF and OF as for the byte form. -/
def Obligations.MulWordWritesTheExactProduct : Prop :=
  ∀ (e : RM Reg16) (s : State), encodeFields (.mulRm16 e) = fieldsRM 0xF7 4 (e.map Reg16.code) ∧
    ∃ t, exec (.mulRm16 e) s = .next t ∧
    let p := (s.regs.get16 .ax).toNat * (s.wordAt e).toNat
    (t.get16 .dx).toNat * 65536 + (t.get16 .ax).toNat = p ∧
    t.regs = (s.regs.set16 .ax (BitVec.ofNat 16 p)).set16 .dx (BitVec.ofNat 16 (p / 65536)) ∧
    (t.flag .CF = true ↔ p / 65536 ≠ 0) ∧ (t.flag .OF = true ↔ p / 65536 ≠ 0) ∧
    sameFlagsOutside [.CF, .OF] s t ∧ t.segs = s.segs ∧ t.ads = s.rmSeg e ∧
    busDid (s.reads16 e) s t ∧ sameSequencer s t

/-- R302: DIV r/m16 with a divisor that is not 0 and a quotient that fits: AX the quotient, DX the remainder, no flag
and nothing else changed. -/
def Obligations.DivWritesQuotientAndRemainder : Prop :=
  ∀ (e : RM Reg16) (s : State),
    let d := (s.wordAt e).toNat
    let n := (s.regs.get16 .dx).toNat * 65536 + (s.regs.get16 .ax).toNat
    encodeFields (.divRm16 e) = fieldsRM 0xF7 6 (e.map Reg16.code) ∧
    (d ≠ 0 → n / d ≤ 0xFFFF → ∃ t, exec (.divRm16 e) s = .next t ∧
      (t.get16 .ax).toNat = n / d ∧ (t.get16 .dx).toNat = n % d ∧
      t.regs = (s.regs.set16 .ax (BitVec.ofNat 16 (n / d))).set16 .dx (BitVec.ofNat 16 (n % d)) ∧
      t.flags = s.flags ∧ t.segs = s.segs ∧ t.ads = s.rmSeg e ∧ busDid (s.reads16 e) s t ∧ sameSequencer s t)

/-- R302, R502: DIV r/m16 with a divisor of 0 or a quotient above 0xFFFF signals Interrupt(0), and the handler finds
registers (IP the next instruction), segments, flags and memory as they were (a divisor in memory has
been read); DX not below the divisor is that case, so
DIV DX always is. The handler is a free value (notes/assumptions/3.md). -/
def Obligations.DivisionFaultSignalsInterruptZero : Prop :=
  (∀ (e : RM Reg16) (s : State),
    let d := (s.wordAt e).toNat
    let n := (s.regs.get16 .dx).toNat * 65536 + (s.regs.get16 .ax).toNat
    d = 0 ∨ n / d > 0xFFFF → ∃ t, exec (.divRm16 e) s = .next t ∧
      interruptTaken 0 { s with bus := s.bus.run (s.reads16 e) } t ∧ t.ads = s.rmSeg e) ∧
  (∀ (e : RM Reg16) (s : State), (s.wordAt e).toNat ≤ (s.regs.get16 .dx).toNat →
    ∃ t, exec (.divRm16 e) s = .next t ∧ interruptTaken 0 { s with bus := s.bus.run (s.reads16 e) } t) ∧
  ∀ s, ∃ t, exec (.divRm16 (.reg .dx)) s = .next t ∧ interruptTaken 0 s t

/-! ## Data movement -/

/-- R320, R332, R328: MOV r/m8, r8; MOV r/m8, imm8; MOV moffs8, AL. The byte goes to the destination; no flag and nothing
else changes. -/
def Obligations.ByteMovesWriteTheirDestination : Prop :=
  (∀ e g ib off, encodeFields (.movRm8R8 e g) = fieldsRM 0x88 g.code (e.map Reg8.code) ∧
    encodeFields (.movRm8Imm8 e ib) = fieldsRM 0xC6 0 (e.map Reg8.code) ++ [.byte ib] ∧
    encodeFields (.movMoffs8Al off) = [.byte 0xA2, .word off]) ∧
  (∀ m rest, m.toNat / 8 % 8 ≠ 0 → decode (0xC6 :: m :: rest) = .error (.illegalModRM 0xC6 m)) ∧
  ∀ s : State,
    (∀ e g, ∃ t, exec (.movRm8R8 e g) s = .next t ∧ byteWritten e (s.regs.get8 g) [] s t ∧ t.flags = s.flags ∧
      t.segs = s.segs ∧ t.ads = s.rmSeg e ∧ sameSequencer s t) ∧
    (∀ e ib, ∃ t, exec (.movRm8Imm8 e ib) s = .next t ∧ byteWritten e ib [] s t ∧ t.flags = s.flags ∧
      t.segs = s.segs ∧ t.ads = s.rmSeg e ∧ sameSequencer s t) ∧
    ∀ off, ∃ t, exec (.movMoffs8Al off) s = .next t ∧ t.regs = s.regs ∧ t.flags = s.flags ∧ t.segs = s.segs ∧
      t.ads = s.ads ∧ sameSequencer s t ∧ busDid [.writeByte (s.segAddr s.ads off) (s.regs.get8 .al)] s t ∧
      (s.plainAt [s.segAddr s.ads off] → t.readByte (s.segAddr s.ads off) = s.regs.get8 .al)

/-- R321, R324, R333, R329: MOV r/m16, r16; MOV r/m16, Sreg; MOV r/m16, imm16; MOV moffs16, AX. The word goes to the
destination, low byte first; no flag and nothing else changes. -/
def Obligations.WordMovesWriteTheirDestination : Prop :=
  (∀ e g r iw off, encodeFields (.movRm16R16 e g) = fieldsRM 0x89 g.code (e.map Reg16.code) ∧
    encodeFields (.movRm16Sreg e r) = fieldsRM 0x8C r.code (e.map Reg16.code) ∧
    encodeFields (.movRm16Imm16 e iw) = fieldsRM 0xC7 0 (e.map Reg16.code) ++ [.word iw] ∧
    encodeFields (.movMoffs16Ax off) = [.byte 0xA3, .word off]) ∧
  (∀ m rest, m.toNat / 8 % 8 ≠ 0 → decode (0xC7 :: m :: rest) = .error (.illegalModRM 0xC7 m)) ∧
  (∀ m rest, 6 ≤ m.toNat / 8 % 8 → decode (0x8C :: m :: rest) = .error (.illegalModRM 0x8C m)) ∧
  ∀ s : State,
    (∀ e g, ∃ t, exec (.movRm16R16 e g) s = .next t ∧ wordWritten e (s.regs.get16 g) [] s t ∧ t.flags = s.flags ∧
      t.segs = s.segs ∧ t.ads = s.rmSeg e ∧ sameSequencer s t) ∧
    (∀ e r, ∃ t, exec (.movRm16Sreg e r) s = .next t ∧ wordWritten e (s.segs.get r).sel [] s t ∧ t.flags = s.flags ∧
      t.segs = s.segs ∧ t.ads = s.rmSeg e ∧ sameSequencer s t) ∧
    (∀ e iw, ∃ t, exec (.movRm16Imm16 e iw) s = .next t ∧ wordWritten e iw [] s t ∧ t.flags = s.flags ∧
      t.segs = s.segs ∧ t.ads = s.rmSeg e ∧ sameSequencer s t) ∧
    ∀ off, ∃ t, exec (.movMoffs16Ax off) s = .next t ∧ t.regs = s.regs ∧ t.flags = s.flags ∧ t.segs = s.segs ∧
      t.ads = s.ads ∧ sameSequencer s t ∧
      busDid [.writeWord (s.segAddr s.ads off) (s.regs.get16 .ax)] s t ∧
      (s.plainAt [s.segAddr s.ads off, s.segAddr s.ads off + 1] →
        t.readByte (s.segAddr s.ads off) = loByte (s.regs.get16 .ax) ∧
        t.readByte (s.segAddr s.ads off + 1) = hiByte (s.regs.get16 .ax))

/-- R322, R323, R326, R327, R330, R331: the MOV forms with a register destination. Only that register view changes. -/
def Obligations.LoadsWriteOnlyTheirRegister : Prop :=
  (∀ g e off ib, encodeFields (.movR8Rm8 g e) = fieldsRM 0x8A g.code (e.map Reg8.code) ∧
    encodeFields (.movAlMoffs8 off) = [.byte 0xA0, .word off] ∧
    encodeFields (.movR8Imm8 g ib) = [.byte (0xB0 + g.code.setWidth 8), .byte ib]) ∧
  (∀ g e off iw, encodeFields (.movR16Rm16 g e) = fieldsRM 0x8B g.code (e.map Reg16.code) ∧
    encodeFields (.movAxMoffs16 off) = [.byte 0xA1, .word off] ∧
    encodeFields (.movR16Imm16 g iw) = [.byte (0xB8 + g.code.setWidth 8), .word iw]) ∧
  ∀ s : State,
    (∀ g e, ∃ t, exec (.movR8Rm8 g e) s = .next t ∧ t.regs = s.regs.set8 g (s.byteAt e) ∧ t.ads = s.rmSeg e ∧
      t.flags = s.flags ∧ t.segs = s.segs ∧ busDid (s.reads8 e) s t ∧ sameSequencer s t) ∧
    (∀ g e, ∃ t, exec (.movR16Rm16 g e) s = .next t ∧ t.regs = s.regs.set16 g (s.wordAt e) ∧ t.ads = s.rmSeg e ∧
      t.flags = s.flags ∧ t.segs = s.segs ∧ busDid (s.reads16 e) s t ∧ sameSequencer s t) ∧
    (∀ off, ∃ t, exec (.movAlMoffs8 off) s = .next t ∧
      t.regs = s.regs.set8 .al (s.readByte (s.segAddr s.ads off)) ∧ t.ads = s.ads ∧
      t.flags = s.flags ∧ t.segs = s.segs ∧ busDid [.readByte (s.segAddr s.ads off)] s t ∧ sameSequencer s t) ∧
    (∀ off, ∃ t, exec (.movAxMoffs16 off) s = .next t ∧
      t.regs = s.regs.set16 .ax (s.readWord (s.segAddr s.ads off)) ∧ t.ads = s.ads ∧
      t.flags = s.flags ∧ t.segs = s.segs ∧ busDid [.readWord (s.segAddr s.ads off)] s t ∧ sameSequencer s t) ∧
    (∀ r ib, ∃ t, exec (.movR8Imm8 r ib) s = .next t ∧ t.regs = s.regs.set8 r ib ∧ t.ads = s.ads ∧
      t.flags = s.flags ∧ t.segs = s.segs ∧ busDid [] s t ∧ sameSequencer s t) ∧
    ∀ r iw, ∃ t, exec (.movR16Imm16 r iw) s = .next t ∧ t.regs = s.regs.set16 r iw ∧ t.ads = s.ads ∧
      t.flags = s.flags ∧ t.segs = s.segs ∧ busDid [] s t ∧ sameSequencer s t

/-- R325: MOV Sreg, r/m16 writes the selector and, with it, the base; no other segment, register, flag or byte. Codes 1
(CS), 6 and 7 are illegal. -/
def Obligations.MovSregLoadsSelectorAndBase : Prop :=
  (∀ m rest, m.toNat / 8 % 8 = 1 ∨ 6 ≤ m.toNat / 8 % 8 → decode (0x8E :: m :: rest) = .error (.illegalModRM 0x8E m)) ∧
  ∀ (r : SegReg) (e : RM Reg16) (s : State), r ≠ .cs →
    encodeFields (.movSregRm16 r e) = fieldsRM 0x8E r.code (e.map Reg16.code) ∧
    ∃ t, exec (.movSregRm16 r e) s = .next t ∧
    (t.segs.get r).sel = s.wordAt e ∧ (t.segs.get r).base.toNat = (s.wordAt e).toNat * 16 ∧
    (∀ q, q ≠ r → t.segs.get q = s.segs.get q) ∧
    t.regs = s.regs ∧ t.flags = s.flags ∧ t.ads = s.rmSeg e ∧ busDid (s.reads16 e) s t ∧ sameSequencer s t

/-- R334, R335: LEA writes the offset alone, whatever the segment, an override or memory, and reads no memory; NOP changes
nothing. -/
def Obligations.LeaWritesTheOffsetAndNopNothing : Prop :=
  (∀ g m s, ∃ t, exec (.leaR16M g m) s = .next t ∧ t.regs = s.regs.set16 g (m.offset s.regs) ∧
    t.flags = s.flags ∧ t.segs = s.segs ∧ t.ads = s.memSeg m ∧ busDid [] s t ∧ sameSequencer s t) ∧
  (∀ (m : MemForm) (g : Reg16) (s : State) (r : SegReg) (b : Bool) (bus : Bus) (t u : State),
    exec (.leaR16M g m) s = .next t →
    exec (.leaR16M g m) { s with ads := r, ovr := b, bus := bus } = .next u → u.regs = t.regs) ∧
  (∀ g m, encodeFields (.leaR16M g m) = .byte 0x8D :: fieldsMem g.code m) ∧
  (∀ m rest, 192 ≤ m.toNat → decode (0x8D :: m :: rest) = .error (.illegalModRM 0x8D m)) ∧
  encode .nop = [0x90] ∧ ∀ s, exec .nop s = .next s

/-! ## Stack -/

/-- R360, R363, R365 to R368: PUSH r16 (PUSH SP with the value before), PUSH ES, CS, SS, DS. SP goes down by 2 mod 2^16,
the word is stored at SS:SP, and nothing else changes. -/
def Obligations.PushStoresTheWordBelowTheStack : Prop :=
  ∀ (s : State) (i : Instr) (op : Byte) (v : Word),
    (∃ r, i = .pushR16 r ∧ op = 0x50 + r.code.setWidth 8 ∧ v = s.regs.get16 r) ∨
    (i = .pushEs ∧ op = 0x06 ∧ v = (s.segs.get .es).sel) ∨ (i = .pushCs ∧ op = 0x0E ∧ v = (s.segs.get .cs).sel) ∨
    (i = .pushSs ∧ op = 0x16 ∧ v = (s.segs.get .ss).sel) ∨ (i = .pushDs ∧ op = 0x1E ∧ v = (s.segs.get .ds).sel) →
    encode i = [op] ∧ ∃ t, exec i s = .next t ∧
      let sp := s.regs.get16 .sp - 2
      let a := s.segAddr .ss sp
      t.regs = s.regs.set16 .sp sp ∧ busDid [.writeWord a v] s t ∧
      (s.plainAt [a, a + 1] → t.readByte a = loByte v ∧ t.readByte (a + 1) = hiByte v) ∧
      t.flags = s.flags ∧ t.segs = s.segs ∧ t.ads = s.ads ∧ sameSequencer s t

/-- R361, R364, R369 to R371: POP r16 (POP SP leaves the popped word), POP ES, SS, DS. The word at SS:SP goes to the
destination, read through the SS before; SP goes up by 2 mod 2^16. -/
def Obligations.PopLoadsTheWordOnTheStack : Prop :=
  ∀ s : State,
    let v := s.readWord (s.segAddr .ss (s.regs.get16 .sp))
    let up := s.regs.set16 .sp (s.regs.get16 .sp + 2)
    let pop := BusOp.readWord (s.segAddr .ss (s.regs.get16 .sp))
    (∀ r, encode (.popR16 r) = [0x58 + r.code.setWidth 8] ∧
      ∃ t, exec (.popR16 r) s = .next t ∧ t.regs = up.set16 r v ∧ t.segs = s.segs ∧
      t.flags = s.flags ∧ t.ads = s.ads ∧ busDid [pop] s t ∧ sameSequencer s t) ∧
    ∀ i op r, (i = .popEs ∧ op = 0x07 ∧ r = .es) ∨ (i = .popSs ∧ op = 0x17 ∧ r = .ss) ∨
        (i = .popDs ∧ op = 0x1F ∧ r = .ds) →
      encode i = [op] ∧ ∃ t, exec i s = .next t ∧ t.regs = up ∧
        (t.segs.get r).sel = v ∧ (t.segs.get r).base.toNat = v.toNat * 16 ∧
        (∀ q, q ≠ r → t.segs.get q = s.segs.get q) ∧
        t.flags = s.flags ∧ t.ads = s.ads ∧ busDid [pop] s t ∧ sameSequencer s t

/-- R362: for every SP and every word, on plain memory, Push16 then Pop16 returns the word and SP is where it was; and so
for PUSH r16, POP r16, whatever the two registers. -/
def Obligations.PushThenPopRoundTrips : Prop :=
  ∀ s : State,
    let a := s.segAddr .ss (s.get16 .sp - 2)
    s.plainAt [a, a + 1] →
    (∀ v : Word, (s.push16 v).stackTop = v ∧ ((s.push16 v).pop16).get16 .sp = s.get16 .sp) ∧
    ∀ (t u : State) (r q : Reg16), exec (.pushR16 r) s = .next t → exec (.popR16 q) t = .next u →
      u.get16 q = s.get16 r ∧ (q ≠ .sp → u.get16 .sp = s.get16 .sp)

/-! ## Control transfer -/

/-- R391, R392, R393: JMP rel8 and rel16 go to next plus the signed displacement mod 2^16 (IP is next when the execute
phase begins); JMP ptr16:16 loads CS with its base, then IP. Nothing else changes. -/
def Obligations.JumpsGoToTheirTarget : Prop :=
  ∀ s : State,
    (∀ d : Byte, encodeFields (.jmpRel8 d) = [.byte 0xEB, .byte d] ∧
      ∃ t, exec (.jmpRel8 d) s = .next t ∧ (t.ip.toNat : Int) = (s.ip.toNat + d.toInt) % 65536 ∧
      t.regs = s.regs.setR16 .ip t.ip ∧ t.segs = s.segs ∧ t.flags = s.flags ∧ t.ads = s.ads ∧
      busDid [] s t ∧ sameSequencer s t) ∧
    (∀ d : Word, encodeFields (.jmpRel16 d) = [.byte 0xE9, .word d] ∧
      ∃ t, exec (.jmpRel16 d) s = .next t ∧ (t.ip.toNat : Int) = (s.ip.toNat + d.toInt) % 65536 ∧
      t.regs = s.regs.setR16 .ip t.ip ∧ t.segs = s.segs ∧ t.flags = s.flags ∧ t.ads = s.ads ∧
      busDid [] s t ∧ sameSequencer s t) ∧
    ∀ off sel : Word, encodeFields (.jmpFar off sel) = [.byte 0xEA, .word off, .word sel] ∧
      ∃ t, exec (.jmpFar off sel) s = .next t ∧ t.regs = s.regs.setR16 .ip off ∧
      (t.segs.get .cs).sel = sel ∧ (t.segs.get .cs).base.toNat = sel.toNat * 16 ∧
      (∀ q, q ≠ .cs → t.segs.get q = s.segs.get q) ∧
      t.flags = s.flags ∧ t.ads = s.ads ∧ busDid [] s t ∧ sameSequencer s t

/-- R394: the sixteen conditional jumps. Taken exactly on the condition of the row, to next plus the signed
displacement; otherwise nothing changes. -/
def Obligations.ConditionalJumpsFollowTheConditionTable : Prop :=
  ∀ (c : Cond) (d : Byte) (s : State), encode (.jcc c d) = [BitVec.ofNat 8 (0x70 + condCode c), d] ∧
    ∃ t, exec (.jcc c d) s = .next t ∧
    (jumpTaken c s → (t.ip.toNat : Int) = (s.ip.toNat + d.toInt) % 65536 ∧ t = s.setIp t.ip) ∧
    (¬ jumpTaken c s → t = s)

/-- R411, R412: CALL rel16 pushes next and jumps; CALL ptr16:16 pushes CS, then next, loads CS with its base, then IP.
The stack bytes are the only bytes written. -/
def Obligations.CallsPushTheReturnAddress : Prop :=
  ∀ s : State,
    let sp := s.regs.get16 .sp
    let a := s.segAddr .ss (sp - 2)
    let b := s.segAddr .ss (sp - 4)
    (∀ d : Word, encodeFields (.callRel16 d) = [.byte 0xE8, .word d] ∧ ∃ t, exec (.callRel16 d) s = .next t ∧
      (t.ip.toNat : Int) = (s.ip.toNat + d.toInt) % 65536 ∧
      t.regs = (s.regs.set16 .sp (sp - 2)).setR16 .ip t.ip ∧ busDid [.writeWord a s.ip] s t ∧
      (s.plainAt [a, a + 1] → t.readWord a = s.ip) ∧
      t.segs = s.segs ∧ t.flags = s.flags ∧ t.ads = s.ads ∧ sameSequencer s t) ∧
    ∀ off sel : Word, encodeFields (.callFar off sel) = [.byte 0x9A, .word off, .word sel] ∧
      ∃ t, exec (.callFar off sel) s = .next t ∧
      t.regs = (s.regs.set16 .sp (sp - 4)).setR16 .ip off ∧
      busDid [.writeWord a (s.segs.get .cs).sel, .writeWord b s.ip] s t ∧
      (s.plainAt [a, a + 1, b, b + 1] → t.readWord b = s.ip ∧ t.readWord a = (s.segs.get .cs).sel) ∧
      (t.segs.get .cs).sel = sel ∧ (t.segs.get .cs).base.toNat = sel.toNat * 16 ∧
      (∀ q, q ≠ .cs → t.segs.get q = s.segs.get q) ∧
      t.flags = s.flags ∧ t.ads = s.ads ∧ sameSequencer s t

/-- R413 to R416: RET and RETF, with and without the byte count. IP is popped first, then CS for RETF, then SP takes the
count. -/
def Obligations.ReturnsPopTheirTarget : Prop :=
  (encode .ret = [0xC3] ∧ encode .retf = [0xCB] ∧ ∀ k, encodeFields (.retImm16 k) = [.byte 0xC2, .word k] ∧
    encodeFields (.retfImm16 k) = [.byte 0xCA, .word k]) ∧
  ∀ (s : State) (i : Instr) (k : Word),
    let sp := s.regs.get16 .sp
    let a := s.segAddr .ss sp
    let b := s.segAddr .ss (sp + 2)
    let cs := (s.sawWord a).readWord b
    ((i = .ret ∧ k = 0) ∨ i = .retImm16 k → ∃ t, exec i s = .next t ∧
      t.regs = (s.regs.set16 .sp (sp + 2 + k)).setR16 .ip (s.readWord a) ∧ t.segs = s.segs ∧
      t.flags = s.flags ∧ t.ads = s.ads ∧ busDid [.readWord a] s t ∧ sameSequencer s t) ∧
    ((i = .retf ∧ k = 0) ∨ i = .retfImm16 k → ∃ t, exec i s = .next t ∧
      t.regs = (s.regs.set16 .sp (sp + 4 + k)).setR16 .ip (s.readWord a) ∧
      (t.segs.get .cs).sel = cs ∧ (t.segs.get .cs).base.toNat = cs.toNat * 16 ∧
      (∀ q, q ≠ .cs → t.segs.get q = s.segs.get q) ∧
      t.flags = s.flags ∧ t.ads = s.ads ∧ busDid [.readWord a, .readWord b] s t ∧ sameSequencer s t)

/-- R413, R412, R415: on plain memory, RET right after CALL rel16 comes back to the instruction after the call with SP as
before, and RETF right after CALL ptr16:16 also restores CS; for every SP, a stack that wraps at offset 0 among them. -/
def Obligations.ReturnAfterCallComesBack : Prop :=
  ∀ s t u : State,
    let a := s.segAddr .ss (s.get16 .sp - 2)
    let b := s.segAddr .ss (s.get16 .sp - 4)
    (∀ d : Word, s.plainAt [a, a + 1] → exec (.callRel16 d) s = .next t → exec .ret t = .next u →
      u.ip = s.ip ∧ u.get16 .sp = s.get16 .sp) ∧
    ∀ off sel : Word, s.plainAt [a, a + 1, b, b + 1] →
      exec (.callFar off sel) s = .next t → exec .retf t = .next u →
      u.ip = s.ip ∧ u.get16 .sp = s.get16 .sp ∧ (u.segs.get .cs).sel = (s.segs.get .cs).sel

/-! ## Strings -/

/-- R430, R432, R433, R434: MOVSB, CMPSB and LODSB without the repeat prefix do one unit: [ADS:SI] and [ES:DI], SI (and
DI, but for LODSB) by one unit in the direction of DF, CX neither read nor written. -/
def Obligations.AStringInstructionDoesOneUnit : Prop :=
  (encode .movsb = [0xA4] ∧ encode .cmpsb = [0xA6] ∧ encode .lodsb = [0xAC]) ∧
  ∀ s : State, s.rep = false →
    let src := s.segAddr s.ads (s.regs.get16 .si)
    let dst := s.segAddr .es (s.regs.get16 .di)
    let si := s.stepped (s.regs.get16 .si) 1
    let di := s.stepped (s.regs.get16 .di) 1
    (∃ t, exec .movsb s = .next t ∧ t.regs = (s.regs.set16 .si si).set16 .di di ∧
      busDid [.readByte src, .writeByte dst (s.readByte src)] s t ∧
      (s.plainAt [dst] → t.readByte dst = s.readByte src) ∧
      t.flags = s.flags ∧ t.segs = s.segs ∧ t.ads = s.ads ∧ sameSequencer s t) ∧
    (∃ t, exec .cmpsb s = .next t ∧ t.regs = (s.regs.set16 .si si).set16 .di di ∧
      statusIs (AluOp.cmp.prim false (s.readByte src) ((s.sawByte src).readByte dst)).2 t ∧
      sameFlagsOutside statusBits s t ∧ busDid [.readByte src, .readByte dst] s t ∧
      t.segs = s.segs ∧ t.ads = s.ads ∧ sameSequencer s t) ∧
    ∃ t, exec .lodsb s = .next t ∧ t.regs = (s.regs.set8 .al (s.readByte src)).set16 .si si ∧
      busDid [.readByte src] s t ∧ t.flags = s.flags ∧ t.segs = s.segs ∧ t.ads = s.ads ∧ sameSequencer s t

/-- R431: under REP, nothing happens when CX is 0; else one unit, CX down by 1, and the same again. -/
def Obligations.RepeatUnrollsOneUnitAtATime : Prop :=
  ∀ (i : Instr) (s : State), i = .movsb ∨ i = .cmpsb ∨ i = .lodsb → s.rep = true →
    (s.get16 .cx = 0 → exec i s = .next s) ∧
    (s.get16 .cx ≠ 0 → ∃ u, exec i { s with rep := false } = .next u ∧
      exec i s = exec i ({ u with rep := true }.set16 .cx (s.get16 .cx - 1)))

/-- R431: under REP the full count is always consumed, CMPSB included: CX ends at 0, SI (and DI) moved by the count. -/
def Obligations.RepeatConsumesTheFullCount : Prop :=
  ∀ (i : Instr) (s : State), i = .movsb ∨ i = .cmpsb ∨ i = .lodsb → s.rep = true →
    ∃ t, exec i s = .next t ∧ t.get16 .cx = 0 ∧
      t.get16 .si = s.stepped (s.get16 .si) (s.get16 .cx).toNat ∧
      t.get16 .di = (if i = .lodsb then s.get16 .di else s.stepped (s.get16 .di) (s.get16 .cx).toNat)

/-- R430 to R432: on plain memory, REP MOVSB copies CX bytes, in either direction, to the destination, and writes no other
byte, whenever no destination byte is a source byte. -/
def Obligations.RepMovsbCopiesTheBlock : Prop :=
  ∀ s : State, s.rep = true →
    let n := (s.get16 .cx).toNat
    let src := fun k => s.segAddr s.ads (s.stepped (s.get16 .si) k)
    let dst := fun k => s.segAddr .es (s.stepped (s.get16 .di) k)
    s.plainAt ((List.range n).map src ++ (List.range n).map dst) →
    (∀ j k, j < n → k < n → src j ≠ dst k) →
    ∃ t, exec .movsb s = .next t ∧ (∀ k, k < n → t.readByte (dst k) = s.readByte (src k)) ∧
      ∀ a, (∀ k, k < n → a ≠ dst k) → t.readByte a = s.readByte a

/-! ## Software interrupt and flag control -/

/-- R460, R504: INT imm8 signals Interrupt(n): the core pushes nothing and changes no flag; registers (IP the next
instruction), segments, flags and memory go to the handler as they are and come back as it leaves them. The handler is
a free value (notes/assumptions/3.md). -/
def Obligations.IntSignalsTheHandler : Prop :=
  ∀ (n : Byte) (s : State), encode (.intImm8 n) = [0xCD, n] ∧
    ∃ t, exec (.intImm8 n) s = .next t ∧ interruptTaken n s t ∧ t.ads = s.ads

/-- R461 to R467: each flag-control instruction writes its own flag and nothing else. -/
def Obligations.FlagControlWritesOneFlag : Prop :=
  ∀ (s : State) (i : Instr) (op : Byte) (x : Flag) (b : Bool),
    (i = .clc ∧ op = 0xF8 ∧ x = .CF ∧ b = false) ∨ (i = .stc ∧ op = 0xF9 ∧ x = .CF ∧ b = true) ∨
    (i = .cmc ∧ op = 0xF5 ∧ x = .CF ∧ b = !s.flag .CF) ∨
    (i = .cli ∧ op = 0xFA ∧ x = .IF ∧ b = false) ∨ (i = .sti ∧ op = 0xFB ∧ x = .IF ∧ b = true) ∨
    (i = .cld ∧ op = 0xFC ∧ x = .DF ∧ b = false) ∨ (i = .std ∧ op = 0xFD ∧ x = .DF ∧ b = true) →
    encode i = [op] ∧ ∃ t, exec i s = .next t ∧ t.flag x = b ∧ sameFlagsOutside [x] s t ∧ t.regs = s.regs ∧
      t.segs = s.segs ∧ busDid [] s t ∧ t.ads = s.ads ∧ sameSequencer s t

/-! ## Registers, segments, flags and memory -/

/-- R31: the four views of a slot are the same storage; a narrow write changes only its bits, and no other slot. -/
def Obligations.RegisterViewsShareTheirStorage : Prop :=
  ∀ (r : RegFile) (n : Slot),
    let S := (r.get n).toNat
    (r.r16 n).toNat = S % 65536 ∧ (r.r8l n).toNat = S % 256 ∧ (r.r8h n).toNat = S / 256 % 256 ∧
    (∀ v : DWord, (r.set n v).get n = v) ∧
    (∀ v : Word, ((r.setR16 n v).get n).toNat = S / 65536 * 65536 + v.toNat) ∧
    (∀ v : Byte, ((r.setR8L n v).get n).toNat = S / 256 * 256 + v.toNat) ∧
    (∀ v : Byte, ((r.setR8H n v).get n).toNat = S / 65536 * 65536 + v.toNat * 256 + S % 256) ∧
    ∀ m, m ≠ n → (∀ v, (r.set n v).get m = r.get m) ∧ (∀ v, (r.setR16 n v).get m = r.get m) ∧
      (∀ v, (r.setR8L n v).get m = r.get m) ∧ ∀ v, (r.setR8H n v).get m = r.get m

/-- R126: the register a 3-bit code selects at each width, as the decoder reads the code and as it is read and
written. -/
def Obligations.RegisterCodesSelectTheirViews : Prop :=
  ∀ r : RegFile,
    ((List.range 8).map fun c => r.get16 (Reg16.ofCode (BitVec.ofNat 3 c))) =
      [Slot.ax, .cx, .dx, .bx, .sp, .bp, .si, .di].map r.r16 ∧
    ((List.range 8).map fun c => r.get8 (Reg8.ofCode (BitVec.ofNat 3 c))) =
      [Slot.ax, .cx, .dx, .bx].map r.r8l ++ [Slot.ax, .cx, .dx, .bx].map r.r8h ∧
    (∀ v, ((List.range 8).map fun c => r.set16 (Reg16.ofCode (BitVec.ofNat 3 c)) v) =
      [Slot.ax, .cx, .dx, .bx, .sp, .bp, .si, .di].map fun n => r.setR16 n v) ∧
    (∀ v, ((List.range 8).map fun c => r.set8 (Reg8.ofCode (BitVec.ofNat 3 c)) v) =
      ([Slot.ax, .cx, .dx, .bx].map fun n => r.setR8L n v) ++ [Slot.ax, .cx, .dx, .bx].map fun n => r.setR8H n v) ∧
    ((List.range 8).map fun c => SegReg.ofCode (BitVec.ofNat 3 c)) =
      [some .es, some .cs, some .ss, some .ds, some .fs, some .gs, none, none]

/-- R41: a selector write sets the selector and the base `v << 4` as one update, for every 16-bit value, and no other
segment register; the base is at most 0xFFFF0. The host's write does, and whatever segment register an instruction
changes has its base at selector * 16 afterwards. -/
def Obligations.ASelectorWriteSetsTheBase : Prop :=
  (∀ (s : State) (r : SegReg) (v : Word),
    let t := s.hostSetSeg r v
    (t.segs.get r).sel = v ∧ (t.segs.get r).base.toNat = v.toNat * 16 ∧ (t.segs.get r).base.toNat ≤ 0xFFFF0 ∧
    (∀ q, q ≠ r → t.segs.get q = s.segs.get q) ∧ t = { s with segs := t.segs }) ∧
  ∀ i s t r, exec i s = .next t → t.segs.get r ≠ s.segs.get r →
    (t.segs.get r).base.toNat = (t.segs.get r).sel.toNat * 16

/-- R85: a linear address is selector * 16 + offset, not reduced mod 2^20, at most 0x10FFEF. -/
def Obligations.LinearAddressesAreNotWrapped : Prop :=
  ∀ (s : State) (r : SegReg) (off : Word), s.segs.coherent →
    (s.segAddr r off).toNat = (s.segs.get r).sel.toNat * 16 + off.toNat ∧ (s.segAddr r off).toNat ≤ 0x10FFEF

/-- R84: words are little-endian on plain memory: reading, what a word write leaves in each byte, and fetching a word; a
byte write leaves every other byte alone. -/
def Obligations.WordsAreLittleEndian : Prop :=
  ∀ (s : State) (a : Addr), s.plainAt [a, a + 1] →
    (s.readWord a).toNat = (s.readByte a).toNat + 256 * (s.readByte (a + 1)).toNat ∧
    (∀ ip, s.codeAddr ip = a → s.fetcher.next16 { ip := ip, bus := s.bus } =
      some (s.readByte a, s.readByte (a + 1), { ip := ip + 2, bus := s.bus })) ∧
    (∀ (v : Word) (b : Addr), b ≠ a → b ≠ a + 1 → (s.writeWord a v).readByte b = s.readByte b) ∧
    (∀ (v : Byte) (b : Addr), b ≠ a → (s.writeByte a v).readByte b = s.readByte b) ∧
    (∀ v : Byte, (s.writeByte a v).readByte a = v) ∧
    ∀ v : Word, ((s.writeWord a v).readByte a).toNat = v.toNat % 256 ∧
      ((s.writeWord a v).readByte (a + 1)).toNat = v.toNat / 256 ∧ (s.writeWord a v).readWord a = v

/-- R127, R128, R129: the offset of every memory form, mod 2^16, disp8 signed and disp16 unsigned; the segment is SS for
BP+SI, BP+DI and BP without an override, else the ADS in force. -/
def Obligations.EffectiveAddressesFollowTheBaseTable : Prop :=
  ∀ (s : State) (m : MemForm), m.wellFormed = true →
    ((m.offset s.regs).toNat : Int) = (match m with
      | .noDisp b => (baseSum b s.regs : Int)
      | .direct off => (off.toNat : Int)
      | .disp8 b d => baseSum b s.regs + d.toInt
      | .disp16 b d => baseSum b s.regs + d.toNat) % 65536 ∧
    s.memSeg m = if s.ovr then s.ads else match m with
      | .noDisp b => if b = .bpsi ∨ b = .bpdi then .ss else s.ads
      | .direct _ => s.ads
      | .disp8 b _ => if b = .bpsi ∨ b = .bpdi ∨ b = .bp then .ss else s.ads
      | .disp16 b _ => if b = .bpsi ∨ b = .bpdi ∨ b = .bp then .ss else s.ads

/-- R46, R48: a host write of one flag bit, or of IOPL, changes that bit or field and no other bit. -/
def Obligations.FlagWritesKeepEveryOtherBit : Prop :=
  (∀ (s : State) (x : Fin 32) (b : Bool) (n : Nat),
    (s.hostSetFlag x b).flags.getLsbD n = if n = x.val then b else s.flags.getLsbD n) ∧
  ∀ (s : State) (v : Fin 4), (s.hostSetIopl v).iopl = v.val ∧
    ∀ n, n ≠ 12 → n ≠ 13 → (s.hostSetIopl v).flags.getLsbD n = s.flags.getLsbD n

/-- R32, R500, R503: the host's request for the high-byte view of slots 4 to 8 is InvalidOperand, with the slot and the
width recorded, and changes nothing; of slots 0 to 3, and of every other width, it is answered. -/
def Obligations.HighByteViewsExistForSlotsZeroToThree : Prop :=
  ∀ (s : State) (n : Slot) (v : DWord),
    (s.hostGetReg n .high8 = .refused (.invalidOperand n .high8) ↔
      n = .sp ∨ n = .bp ∨ n = .si ∨ n = .di ∨ n = .ip) ∧
    (s.hostSetReg n .high8 v = .refused (.invalidOperand n .high8) ↔
      n = .sp ∨ n = .bp ∨ n = .si ∨ n = .di ∨ n = .ip) ∧
    ∀ w, w ≠ .high8 ∨ n = .ax ∨ n = .cx ∨ n = .dx ∨ n = .bx →
      (∃ x, s.hostGetReg n w = .next x) ∧ ∃ t, s.hostSetReg n w v = .next t

/-- R6, R80, R83, R86: MEM is an argument. The core may stand on a bus of any content, with devices at any addresses and
any history; a read of plain memory has no side effect; at a device each operation, a word one whole, is one transaction,
its answer a free value of the history, and plain memory is left alone. (That a word operation with a device at either
byte is the device's is the model's choice, notes/assumptions/2.md.) -/
def Obligations.MemoryIsAnArgument : Prop :=
  (∀ (f : Addr → Byte) (devices : List Window) (log : List BusOp), ∃ b : Bus,
    Machine.Inv (State.reset.onBus b) ∧ b.devices = devices ∧ b.log = log ∧
    ∀ a, b.isDevice a = false → (State.reset.onBus b).readByte a = f a) ∧
  (∀ (s : State) (a : Addr), s.bus.isDevice a = false →
    s.sawByte a = s ∧ (s.bus.isDevice (a + 1) = false → s.sawWord a = s)) ∧
  (∀ (s : State) (a : Addr), s.bus.isDevice a = true →
    s.readByte a = Config.deviceByte s.bus.log a ∧
    s.sawByte a = { s with bus := { s.bus with log := s.bus.log ++ [.readByte a] } } ∧
    ∀ v, s.writeByte a v = { s with bus := { s.bus with log := s.bus.log ++ [.writeByte a v] } }) ∧
  ∀ (s : State) (a : Addr), s.bus.isDevice a = true ∨ s.bus.isDevice (a + 1) = true →
    s.readWord a = Config.deviceWord s.bus.log a ∧
    s.sawWord a = { s with bus := { s.bus with log := s.bus.log ++ [.readWord a] } } ∧
    ∀ v, s.writeWord a v = { s with bus := { s.bus with log := s.bus.log ++ [.writeWord a v] } }
end

