-- ==== Sys2Proof/Laws/Bits.lean ====
section
/-! SUPPORT. Bit by bit: words and bytes, the register views (10_state.md R31), and one-bit writes of the flags register
(10_state.md R46). -/

namespace Sys2Proof.Machine

/-! ### Words and bytes -/

theorem getLsbD_wordOf (lo hi : Byte) (i : Nat) :
    (wordOf lo hi).getLsbD i = if i < 8 then lo.getLsbD i else hi.getLsbD (i - 8) :=
  BitVec.getLsbD_append

theorem getLsbD_loByte (w : Word) (i : Nat) : (loByte w).getLsbD i = (decide (i < 8) && w.getLsbD i) := by
  rw [loByte, BitVec.getLsbD_extractLsb', Nat.zero_add]

theorem getLsbD_hiByte (w : Word) (i : Nat) : (hiByte w).getLsbD i = (decide (i < 8) && w.getLsbD (8 + i)) := by
  rw [hiByte, BitVec.getLsbD_extractLsb']

/-- A word is made of its two bytes. -/
@[simp] theorem wordOf_lo_hi (v : Word) : wordOf (loByte v) (hiByte v) = v := by
  refine BitVec.eq_of_getLsbD_eq fun i hi => ?_
  rw [getLsbD_wordOf, getLsbD_loByte, getLsbD_hiByte]
  split
  · simp_all
  · rw [show 8 + (i - 8) = i by omega]
    simp; omega

@[simp] theorem loByte_wordOf (lo hi : Byte) : loByte (wordOf lo hi) = lo := by
  refine BitVec.eq_of_getLsbD_eq fun i hi => ?_
  rw [getLsbD_loByte, getLsbD_wordOf]
  simp [hi]

@[simp] theorem hiByte_wordOf (lo hi : Byte) : hiByte (wordOf lo hi) = hi := by
  refine BitVec.eq_of_getLsbD_eq fun i h => ?_
  rw [getLsbD_hiByte, getLsbD_wordOf]
  simp [h]

/-- The value of a word from its bytes (20_memory.md R84). -/
theorem toNat_wordOf (lo hi : Byte) : (wordOf lo hi).toNat = lo.toNat + 256 * hi.toNat := by
  have h : (wordOf lo hi).toNat = hi.toNat <<< 8 ||| lo.toNat := BitVec.toNat_append hi lo
  rw [h, ← Nat.shiftLeft_add_eq_or_of_lt lo.isLt, Nat.shiftLeft_eq]
  omega

theorem toNat_loByte (w : Word) : (loByte w).toNat = w.toNat % 256 := by
  simp [loByte, BitVec.extractLsb'_toNat]

theorem toNat_hiByte (w : Word) : (hiByte w).toNat = w.toNat / 256 := by
  have := w.isLt
  simp [hiByte, BitVec.extractLsb'_toNat, Nat.shiftRight_eq_div_pow]
  omega

/-! ### The register file -/

@[simp] theorem RegFile.get_set (r : RegFile) (n m : Slot) (v : DWord) :
    (r.set n v).get m = if m = n then v else r.get m := by
  cases n <;> cases m <;> rfl

theorem RegFile.ext_get {r t : RegFile} (h : ∀ n, r.get n = t.get n) : r = t := by
  have h0 := h .ax; have h1 := h .cx; have h2 := h .dx; have h3 := h .bx; have h4 := h .sp
  have h5 := h .bp; have h6 := h .si; have h7 := h .di; have h8 := h .ip
  cases r; cases t
  simp only [RegFile.get] at h0 h1 h2 h3 h4 h5 h6 h7 h8
  subst_vars
  rfl

/-- The bits of a slot after a 16-bit write (10_state.md R31). -/
theorem RegFile.getLsbD_setR16 (r : RegFile) (n m : Slot) (v : Word) (i : Nat) :
    ((r.setR16 n v).get m).getLsbD i =
      if m = n ∧ i < 16 then v.getLsbD i else (r.get m).getLsbD i := by
  rw [RegFile.setR16, RegFile.get_set]
  split
  · subst m
    refine (BitVec.getLsbD_append (x := (r.get n).extractLsb' 16 16) (y := v)).trans ?_
    simp only [true_and, BitVec.getLsbD_extractLsb']
    split
    · rfl
    · rw [show 16 + (i - 16) = i by omega]
      by_cases hi : i - 16 < 16
      · simp [hi]
      · simp only [hi, decide_false, Bool.false_and]
        exact (BitVec.getLsbD_of_ge _ _ (by omega)).symm
  · rename_i h; simp [h]

/-- The bits of a slot after a low-byte write (10_state.md R31). -/
theorem RegFile.getLsbD_setR8L (r : RegFile) (n m : Slot) (v : Byte) (i : Nat) :
    ((r.setR8L n v).get m).getLsbD i =
      if m = n ∧ i < 8 then v.getLsbD i else (r.get m).getLsbD i := by
  rw [RegFile.setR8L, RegFile.get_set]
  split
  · subst m
    refine (BitVec.getLsbD_append (x := (r.get n).extractLsb' 8 24) (y := v)).trans ?_
    simp only [true_and, BitVec.getLsbD_extractLsb']
    split
    · rfl
    · rw [show 8 + (i - 8) = i by omega]
      by_cases hi : i - 8 < 24
      · simp [hi]
      · simp only [hi, decide_false, Bool.false_and]
        exact (BitVec.getLsbD_of_ge _ _ (by omega)).symm
  · rename_i h; simp [h]

/-- The bits of a slot after a high-byte write (10_state.md R31). -/
theorem RegFile.getLsbD_setR8H (r : RegFile) (n m : Slot) (v : Byte) (i : Nat) :
    ((r.setR8H n v).get m).getLsbD i =
      if m = n ∧ 8 ≤ i ∧ i < 16 then v.getLsbD (i - 8) else (r.get m).getLsbD i := by
  rw [RegFile.setR8H, RegFile.get_set]
  split
  · subst m
    refine (BitVec.getLsbD_append (x := (r.get n).extractLsb' 16 16 ++ v)
      (y := (r.get n).extractLsb' 0 8)).trans ?_
    rw [BitVec.getLsbD_append (x := (r.get n).extractLsb' 16 16) (y := v)]
    simp only [true_and, BitVec.getLsbD_extractLsb', Nat.zero_add]
    by_cases h8 : i < 8
    · simp [h8, show ¬ 8 ≤ i by omega]
    · by_cases h16 : i < 16
      · simp [h8, h16, show i - 8 < 8 by omega, show 8 ≤ i by omega]
      · rw [if_neg h8, if_neg (by omega), if_neg (by omega), show 16 + (i - 8 - 8) = i by omega]
        by_cases hi : i - 8 - 8 < 16
        · simp [hi]
        · simp only [hi, decide_false, Bool.false_and]
          exact (BitVec.getLsbD_of_ge _ _ (by omega)).symm
  · rename_i h; simp [h]

theorem RegFile.getLsbD_r16 (r : RegFile) (n : Slot) (i : Nat) :
    (r.r16 n).getLsbD i = (decide (i < 16) && (r.get n).getLsbD i) := by
  rw [RegFile.r16, BitVec.getLsbD_extractLsb', Nat.zero_add]

theorem RegFile.getLsbD_r8l (r : RegFile) (n : Slot) (i : Nat) :
    (r.r8l n).getLsbD i = (decide (i < 8) && (r.get n).getLsbD i) := by
  rw [RegFile.r8l, BitVec.getLsbD_extractLsb', Nat.zero_add]

theorem RegFile.getLsbD_r8h (r : RegFile) (n : Slot) (i : Nat) :
    (r.r8h n).getLsbD i = (decide (i < 8) && (r.get n).getLsbD (8 + i)) := by
  rw [RegFile.r8h, BitVec.getLsbD_extractLsb']

/-- A 16-bit view after a 16-bit write. -/
@[simp] theorem RegFile.r16_setR16 (r : RegFile) (n m : Slot) (v : Word) :
    (r.setR16 n v).r16 m = if m = n then v else r.r16 m := by
  refine BitVec.eq_of_getLsbD_eq fun i hi => ?_
  rw [RegFile.getLsbD_r16, RegFile.getLsbD_setR16]
  split <;> rename_i h
  · simp [h.1, hi]
  · rw [if_neg (by simpa [hi] using h), RegFile.getLsbD_r16]

@[simp] theorem RegFile.r8l_setR8L (r : RegFile) (n : Slot) (v : Byte) : (r.setR8L n v).r8l n = v := by
  refine BitVec.eq_of_getLsbD_eq fun i hi => ?_
  rw [RegFile.getLsbD_r8l, RegFile.getLsbD_setR8L, if_pos ⟨rfl, hi⟩]
  simp [hi]

@[simp] theorem RegFile.r8h_setR8H (r : RegFile) (n : Slot) (v : Byte) : (r.setR8H n v).r8h n = v := by
  refine BitVec.eq_of_getLsbD_eq fun i hi => ?_
  rw [RegFile.getLsbD_r8h, RegFile.getLsbD_setR8H, if_pos ⟨rfl, by omega, by omega⟩,
    Nat.add_sub_cancel_left]
  simp [hi]

theorem RegFile.get_setR16_other (r : RegFile) {n m : Slot} (v : Word) (h : m ≠ n) :
    (r.setR16 n v).get m = r.get m := by
  simp [RegFile.setR16, h]

theorem RegFile.get_setR8L_other (r : RegFile) {n m : Slot} (v : Byte) (h : m ≠ n) :
    (r.setR8L n v).get m = r.get m := by
  simp [RegFile.setR8L, h]

theorem RegFile.get_setR8H_other (r : RegFile) {n m : Slot} (v : Byte) (h : m ≠ n) :
    (r.setR8H n v).get m = r.get m := by
  simp [RegFile.setR8H, h]

/-- Two 16-bit writes of one slot: the later one stays. -/
@[simp] theorem RegFile.setR16_setR16 (r : RegFile) (n : Slot) (v w : Word) :
    (r.setR16 n v).setR16 n w = r.setR16 n w := by
  refine RegFile.ext_get fun m => BitVec.eq_of_getLsbD_eq fun i hi => ?_
  simp only [RegFile.getLsbD_setR16]
  split <;> simp_all

/-- 16-bit writes of different slots commute. -/
theorem RegFile.setR16_comm (r : RegFile) {n m : Slot} (v w : Word) (h : n ≠ m) :
    (r.setR16 n v).setR16 m w = (r.setR16 m w).setR16 n v := by
  refine RegFile.ext_get fun k => BitVec.eq_of_getLsbD_eq fun i hi => ?_
  simp only [RegFile.getLsbD_setR16]
  by_cases h1 : k = n <;> by_cases h2 : k = m <;> simp_all

/-- Writing back a 16-bit view changes nothing. -/
@[simp] theorem RegFile.setR16_r16 (r : RegFile) (n : Slot) : r.setR16 n (r.r16 n) = r := by
  refine RegFile.ext_get fun m => BitVec.eq_of_getLsbD_eq fun i hi => ?_
  rw [RegFile.getLsbD_setR16, RegFile.getLsbD_r16]
  split <;> rename_i h
  · simp [h.1, h.2]
  · rfl

theorem Reg16.slot_injective {a b : Reg16} (h : a.slot = b.slot) : a = b := by
  cases a <;> cases b <;> first | rfl | cases h

theorem Reg16.slot_ne_ip (a : Reg16) : a.slot ≠ .ip := by
  cases a <;> decide

/-- A word register after a word-register write. -/
@[simp] theorem RegFile.get16_set16 (r : RegFile) (a b : Reg16) (v : Word) :
    (r.set16 a v).get16 b = if b = a then v else r.get16 b := by
  rw [RegFile.get16, RegFile.set16, RegFile.r16_setR16]
  by_cases h : b = a
  · simp [h]
  · rw [if_neg h, if_neg fun hs => h (Reg16.slot_injective hs), RegFile.get16]

@[simp] theorem RegFile.r16_ip_set16 (r : RegFile) (a : Reg16) (v : Word) : (r.set16 a v).r16 .ip = r.r16 .ip := by
  rw [RegFile.set16, RegFile.r16_setR16, if_neg (Reg16.slot_ne_ip a).symm]

@[simp] theorem RegFile.get16_setIp (r : RegFile) (a : Reg16) (v : Word) : (r.setR16 .ip v).get16 a = r.get16 a := by
  rw [RegFile.get16, RegFile.r16_setR16, if_neg (Reg16.slot_ne_ip a), RegFile.get16]

@[simp] theorem RegFile.set16_set16 (r : RegFile) (a : Reg16) (v w : Word) :
    (r.set16 a v).set16 a w = r.set16 a w :=
  RegFile.setR16_setR16 r a.slot v w

@[simp] theorem RegFile.set16_get16 (r : RegFile) (a : Reg16) : r.set16 a (r.get16 a) = r :=
  RegFile.setR16_r16 r a.slot

/-- The bits of a slot after a byte-register write lie in one byte of it. -/
theorem RegFile.get8_set8_same (r : RegFile) (c : Reg8) (v : Byte) : (r.set8 c v).get8 c = v := by
  cases c <;> simp [RegFile.get8, RegFile.set8, Reg8.isHigh]

/-! ### One-bit writes -/

/-- A one-bit write changes that bit and no other (10_state.md R46). -/
theorem getLsbD_setBit (f : DWord) {n : Nat} (b : Bool) (hn : n < 32) (i : Nat) :
    (setBit f n b).getLsbD i = if i = n then b else f.getLsbD i := by
  rcases Nat.lt_or_ge i 32 with hi | hi
  · have h1 : ((1#32) <<< n).getLsbD i = decide (i = n) := by
      rw [BitVec.getLsbD_shiftLeft, BitVec.getLsbD_one]
      by_cases h : i = n
      · subst i; simp [hn]
      · by_cases h2 : i < n
        · simp [h, h2]
        · simp [h, h2, show ¬ i - n = 0 by omega]
    cases b
    · simp only [setBit, Bool.false_eq_true, if_false]
      rw [BitVec.getLsbD_and, BitVec.getLsbD_not, h1]
      by_cases h : i = n <;> simp [h, hi]
    · simp only [setBit, if_true]
      rw [BitVec.getLsbD_or, h1]
      by_cases h : i = n <;> simp [h]
  · rw [BitVec.getLsbD_of_ge _ _ hi, BitVec.getLsbD_of_ge _ _ hi, if_neg (by omega)]

theorem Flag.bit_lt (x : Flag) : x.bit < 32 := by cases x <;> decide

theorem Flag.bit_injective {x y : Flag} (h : x.bit = y.bit) : x = y := by
  revert h; cases x <;> cases y <;> decide

end Sys2Proof.Machine
end

