-- ==== Sys2Proof/Laws/State.lean ====
section
/-! SUPPORT. What each operation on the state does to each field: one lemma per field per operation, so that no later
proof unfolds a record update. -/

namespace Sys2Proof.Machine

variable (s : State)

/-! ### set8 -/

@[simp] theorem State.set8_regs (c : Reg8) (v : Byte) : (s.set8 c v).regs = s.regs.set8 c v := rfl
@[simp] theorem State.set8_segs (c : Reg8) (v : Byte) : (s.set8 c v).segs = s.segs := rfl
@[simp] theorem State.set8_flags (c : Reg8) (v : Byte) : (s.set8 c v).flags = s.flags := rfl
@[simp] theorem State.set8_bus (c : Reg8) (v : Byte) : (s.set8 c v).bus = s.bus := rfl
@[simp] theorem State.set8_ads (c : Reg8) (v : Byte) : (s.set8 c v).ads = s.ads := rfl
@[simp] theorem State.set8_ovr (c : Reg8) (v : Byte) : (s.set8 c v).ovr = s.ovr := rfl
@[simp] theorem State.set8_rep (c : Reg8) (v : Byte) : (s.set8 c v).rep = s.rep := rfl
@[simp] theorem State.set8_fault (c : Reg8) (v : Byte) : (s.set8 c v).fault = s.fault := rfl
@[simp] theorem State.set8_inh (c : Reg8) (v : Byte) : (s.set8 c v).inh = s.inh := rfl
@[simp] theorem State.set8_trace (c : Reg8) (v : Byte) : (s.set8 c v).trace = s.trace := rfl
@[simp] theorem State.set8_signal (c : Reg8) (v : Byte) : (s.set8 c v).signal = s.signal := rfl
@[simp] theorem State.set8_draws (c : Reg8) (v : Byte) : (s.set8 c v).draws = s.draws := rfl

/-! ### set16 -/

@[simp] theorem State.set16_regs (c : Reg16) (v : Word) : (s.set16 c v).regs = s.regs.set16 c v := rfl
@[simp] theorem State.set16_segs (c : Reg16) (v : Word) : (s.set16 c v).segs = s.segs := rfl
@[simp] theorem State.set16_flags (c : Reg16) (v : Word) : (s.set16 c v).flags = s.flags := rfl
@[simp] theorem State.set16_bus (c : Reg16) (v : Word) : (s.set16 c v).bus = s.bus := rfl
@[simp] theorem State.set16_ads (c : Reg16) (v : Word) : (s.set16 c v).ads = s.ads := rfl
@[simp] theorem State.set16_ovr (c : Reg16) (v : Word) : (s.set16 c v).ovr = s.ovr := rfl
@[simp] theorem State.set16_rep (c : Reg16) (v : Word) : (s.set16 c v).rep = s.rep := rfl
@[simp] theorem State.set16_fault (c : Reg16) (v : Word) : (s.set16 c v).fault = s.fault := rfl
@[simp] theorem State.set16_inh (c : Reg16) (v : Word) : (s.set16 c v).inh = s.inh := rfl
@[simp] theorem State.set16_trace (c : Reg16) (v : Word) : (s.set16 c v).trace = s.trace := rfl
@[simp] theorem State.set16_signal (c : Reg16) (v : Word) : (s.set16 c v).signal = s.signal := rfl
@[simp] theorem State.set16_draws (c : Reg16) (v : Word) : (s.set16 c v).draws = s.draws := rfl

/-! ### setIp -/

@[simp] theorem State.setIp_regs (v : Word) : (s.setIp v).regs = s.regs.setR16 .ip v := rfl
@[simp] theorem State.setIp_segs (v : Word) : (s.setIp v).segs = s.segs := rfl
@[simp] theorem State.setIp_flags (v : Word) : (s.setIp v).flags = s.flags := rfl
@[simp] theorem State.setIp_bus (v : Word) : (s.setIp v).bus = s.bus := rfl
@[simp] theorem State.setIp_ads (v : Word) : (s.setIp v).ads = s.ads := rfl
@[simp] theorem State.setIp_ovr (v : Word) : (s.setIp v).ovr = s.ovr := rfl
@[simp] theorem State.setIp_rep (v : Word) : (s.setIp v).rep = s.rep := rfl
@[simp] theorem State.setIp_fault (v : Word) : (s.setIp v).fault = s.fault := rfl
@[simp] theorem State.setIp_inh (v : Word) : (s.setIp v).inh = s.inh := rfl
@[simp] theorem State.setIp_trace (v : Word) : (s.setIp v).trace = s.trace := rfl
@[simp] theorem State.setIp_signal (v : Word) : (s.setIp v).signal = s.signal := rfl
@[simp] theorem State.setIp_draws (v : Word) : (s.setIp v).draws = s.draws := rfl

/-! ### loadSeg -/

@[simp] theorem State.loadSeg_regs (r : SegReg) (v : Word) : (s.loadSeg r v).regs = s.regs := rfl
@[simp] theorem State.loadSeg_segs (r : SegReg) (v : Word) : (s.loadSeg r v).segs = s.segs.set r (.load v) := rfl
@[simp] theorem State.loadSeg_flags (r : SegReg) (v : Word) : (s.loadSeg r v).flags = s.flags := rfl
@[simp] theorem State.loadSeg_bus (r : SegReg) (v : Word) : (s.loadSeg r v).bus = s.bus := rfl
@[simp] theorem State.loadSeg_ads (r : SegReg) (v : Word) : (s.loadSeg r v).ads = s.ads := rfl
@[simp] theorem State.loadSeg_ovr (r : SegReg) (v : Word) : (s.loadSeg r v).ovr = s.ovr := rfl
@[simp] theorem State.loadSeg_rep (r : SegReg) (v : Word) : (s.loadSeg r v).rep = s.rep := rfl
@[simp] theorem State.loadSeg_fault (r : SegReg) (v : Word) : (s.loadSeg r v).fault = s.fault := rfl
@[simp] theorem State.loadSeg_inh (r : SegReg) (v : Word) : (s.loadSeg r v).inh = s.inh := rfl
@[simp] theorem State.loadSeg_trace (r : SegReg) (v : Word) : (s.loadSeg r v).trace = s.trace := rfl
@[simp] theorem State.loadSeg_signal (r : SegReg) (v : Word) : (s.loadSeg r v).signal = s.signal := rfl
@[simp] theorem State.loadSeg_draws (r : SegReg) (v : Word) : (s.loadSeg r v).draws = s.draws := rfl

/-! ### writeByte -/

@[simp] theorem State.writeByte_regs (a : Addr) (v : Byte) : (s.writeByte a v).regs = s.regs := rfl
@[simp] theorem State.writeByte_segs (a : Addr) (v : Byte) : (s.writeByte a v).segs = s.segs := rfl
@[simp] theorem State.writeByte_flags (a : Addr) (v : Byte) : (s.writeByte a v).flags = s.flags := rfl
@[simp] theorem State.writeByte_bus (a : Addr) (v : Byte) : (s.writeByte a v).bus = s.bus.after (.writeByte a v) := rfl
@[simp] theorem State.writeByte_ads (a : Addr) (v : Byte) : (s.writeByte a v).ads = s.ads := rfl
@[simp] theorem State.writeByte_ovr (a : Addr) (v : Byte) : (s.writeByte a v).ovr = s.ovr := rfl
@[simp] theorem State.writeByte_rep (a : Addr) (v : Byte) : (s.writeByte a v).rep = s.rep := rfl
@[simp] theorem State.writeByte_fault (a : Addr) (v : Byte) : (s.writeByte a v).fault = s.fault := rfl
@[simp] theorem State.writeByte_inh (a : Addr) (v : Byte) : (s.writeByte a v).inh = s.inh := rfl
@[simp] theorem State.writeByte_trace (a : Addr) (v : Byte) : (s.writeByte a v).trace = s.trace := rfl
@[simp] theorem State.writeByte_signal (a : Addr) (v : Byte) : (s.writeByte a v).signal = s.signal := rfl
@[simp] theorem State.writeByte_draws (a : Addr) (v : Byte) : (s.writeByte a v).draws = s.draws := rfl

/-! ### writeWord -/

@[simp] theorem State.writeWord_regs (a : Addr) (v : Word) : (s.writeWord a v).regs = s.regs := rfl
@[simp] theorem State.writeWord_segs (a : Addr) (v : Word) : (s.writeWord a v).segs = s.segs := rfl
@[simp] theorem State.writeWord_flags (a : Addr) (v : Word) : (s.writeWord a v).flags = s.flags := rfl
@[simp] theorem State.writeWord_bus (a : Addr) (v : Word) : (s.writeWord a v).bus = s.bus.after (.writeWord a v) := rfl
@[simp] theorem State.writeWord_ads (a : Addr) (v : Word) : (s.writeWord a v).ads = s.ads := rfl
@[simp] theorem State.writeWord_ovr (a : Addr) (v : Word) : (s.writeWord a v).ovr = s.ovr := rfl
@[simp] theorem State.writeWord_rep (a : Addr) (v : Word) : (s.writeWord a v).rep = s.rep := rfl
@[simp] theorem State.writeWord_fault (a : Addr) (v : Word) : (s.writeWord a v).fault = s.fault := rfl
@[simp] theorem State.writeWord_inh (a : Addr) (v : Word) : (s.writeWord a v).inh = s.inh := rfl
@[simp] theorem State.writeWord_trace (a : Addr) (v : Word) : (s.writeWord a v).trace = s.trace := rfl
@[simp] theorem State.writeWord_signal (a : Addr) (v : Word) : (s.writeWord a v).signal = s.signal := rfl
@[simp] theorem State.writeWord_draws (a : Addr) (v : Word) : (s.writeWord a v).draws = s.draws := rfl

/-! ### sawByte -/

@[simp] theorem State.sawByte_regs (a : Addr) : (s.sawByte a).regs = s.regs := rfl
@[simp] theorem State.sawByte_segs (a : Addr) : (s.sawByte a).segs = s.segs := rfl
@[simp] theorem State.sawByte_flags (a : Addr) : (s.sawByte a).flags = s.flags := rfl
@[simp] theorem State.sawByte_bus (a : Addr) : (s.sawByte a).bus = s.bus.after (.readByte a) := rfl
@[simp] theorem State.sawByte_ads (a : Addr) : (s.sawByte a).ads = s.ads := rfl
@[simp] theorem State.sawByte_ovr (a : Addr) : (s.sawByte a).ovr = s.ovr := rfl
@[simp] theorem State.sawByte_rep (a : Addr) : (s.sawByte a).rep = s.rep := rfl
@[simp] theorem State.sawByte_fault (a : Addr) : (s.sawByte a).fault = s.fault := rfl
@[simp] theorem State.sawByte_inh (a : Addr) : (s.sawByte a).inh = s.inh := rfl
@[simp] theorem State.sawByte_trace (a : Addr) : (s.sawByte a).trace = s.trace := rfl
@[simp] theorem State.sawByte_signal (a : Addr) : (s.sawByte a).signal = s.signal := rfl
@[simp] theorem State.sawByte_draws (a : Addr) : (s.sawByte a).draws = s.draws := rfl

/-! ### sawWord -/

@[simp] theorem State.sawWord_regs (a : Addr) : (s.sawWord a).regs = s.regs := rfl
@[simp] theorem State.sawWord_segs (a : Addr) : (s.sawWord a).segs = s.segs := rfl
@[simp] theorem State.sawWord_flags (a : Addr) : (s.sawWord a).flags = s.flags := rfl
@[simp] theorem State.sawWord_bus (a : Addr) : (s.sawWord a).bus = s.bus.after (.readWord a) := rfl
@[simp] theorem State.sawWord_ads (a : Addr) : (s.sawWord a).ads = s.ads := rfl
@[simp] theorem State.sawWord_ovr (a : Addr) : (s.sawWord a).ovr = s.ovr := rfl
@[simp] theorem State.sawWord_rep (a : Addr) : (s.sawWord a).rep = s.rep := rfl
@[simp] theorem State.sawWord_fault (a : Addr) : (s.sawWord a).fault = s.fault := rfl
@[simp] theorem State.sawWord_inh (a : Addr) : (s.sawWord a).inh = s.inh := rfl
@[simp] theorem State.sawWord_trace (a : Addr) : (s.sawWord a).trace = s.trace := rfl
@[simp] theorem State.sawWord_signal (a : Addr) : (s.sawWord a).signal = s.signal := rfl
@[simp] theorem State.sawWord_draws (a : Addr) : (s.sawWord a).draws = s.draws := rfl

/-! ### setFlag -/

@[simp] theorem State.setFlag_regs (x : Flag) (b : Bool) : (s.setFlag x b).regs = s.regs := rfl
@[simp] theorem State.setFlag_segs (x : Flag) (b : Bool) : (s.setFlag x b).segs = s.segs := rfl
@[simp] theorem State.setFlag_flags (x : Flag) (b : Bool) : (s.setFlag x b).flags = setBit s.flags x.bit b := rfl
@[simp] theorem State.setFlag_bus (x : Flag) (b : Bool) : (s.setFlag x b).bus = s.bus := rfl
@[simp] theorem State.setFlag_ads (x : Flag) (b : Bool) : (s.setFlag x b).ads = s.ads := rfl
@[simp] theorem State.setFlag_ovr (x : Flag) (b : Bool) : (s.setFlag x b).ovr = s.ovr := rfl
@[simp] theorem State.setFlag_rep (x : Flag) (b : Bool) : (s.setFlag x b).rep = s.rep := rfl
@[simp] theorem State.setFlag_fault (x : Flag) (b : Bool) : (s.setFlag x b).fault = s.fault := rfl
@[simp] theorem State.setFlag_inh (x : Flag) (b : Bool) : (s.setFlag x b).inh = s.inh := rfl
@[simp] theorem State.setFlag_trace (x : Flag) (b : Bool) : (s.setFlag x b).trace = s.trace := rfl
@[simp] theorem State.setFlag_signal (x : Flag) (b : Bool) : (s.setFlag x b).signal = s.signal := rfl
@[simp] theorem State.setFlag_draws (x : Flag) (b : Bool) : (s.setFlag x b).draws = s.draws := rfl

/-! ### setStatus -/

@[simp] theorem State.setStatus_regs (fl : StatusFlags) : (s.setStatus fl).regs = s.regs := rfl
@[simp] theorem State.setStatus_segs (fl : StatusFlags) : (s.setStatus fl).segs = s.segs := rfl
@[simp] theorem State.setStatus_bus (fl : StatusFlags) : (s.setStatus fl).bus = s.bus := rfl
@[simp] theorem State.setStatus_ads (fl : StatusFlags) : (s.setStatus fl).ads = s.ads := rfl
@[simp] theorem State.setStatus_ovr (fl : StatusFlags) : (s.setStatus fl).ovr = s.ovr := rfl
@[simp] theorem State.setStatus_rep (fl : StatusFlags) : (s.setStatus fl).rep = s.rep := rfl
@[simp] theorem State.setStatus_fault (fl : StatusFlags) : (s.setStatus fl).fault = s.fault := rfl
@[simp] theorem State.setStatus_inh (fl : StatusFlags) : (s.setStatus fl).inh = s.inh := rfl
@[simp] theorem State.setStatus_trace (fl : StatusFlags) : (s.setStatus fl).trace = s.trace := rfl
@[simp] theorem State.setStatus_signal (fl : StatusFlags) : (s.setStatus fl).signal = s.signal := rfl
@[simp] theorem State.setStatus_draws (fl : StatusFlags) : (s.setStatus fl).draws = s.draws := rfl

/-! ### overrideSeg -/

@[simp] theorem State.overrideSeg_regs (r : SegReg) : (s.overrideSeg r).regs = s.regs := rfl
@[simp] theorem State.overrideSeg_segs (r : SegReg) : (s.overrideSeg r).segs = s.segs := rfl
@[simp] theorem State.overrideSeg_flags (r : SegReg) : (s.overrideSeg r).flags = s.flags := rfl
@[simp] theorem State.overrideSeg_bus (r : SegReg) : (s.overrideSeg r).bus = s.bus := rfl
@[simp] theorem State.overrideSeg_ads (r : SegReg) : (s.overrideSeg r).ads = r := rfl
@[simp] theorem State.overrideSeg_ovr (r : SegReg) : (s.overrideSeg r).ovr = true := rfl
@[simp] theorem State.overrideSeg_rep (r : SegReg) : (s.overrideSeg r).rep = s.rep := rfl
@[simp] theorem State.overrideSeg_fault (r : SegReg) : (s.overrideSeg r).fault = s.fault := rfl
@[simp] theorem State.overrideSeg_inh (r : SegReg) : (s.overrideSeg r).inh = s.inh := rfl
@[simp] theorem State.overrideSeg_trace (r : SegReg) : (s.overrideSeg r).trace = s.trace := rfl
@[simp] theorem State.overrideSeg_signal (r : SegReg) : (s.overrideSeg r).signal = s.signal := rfl
@[simp] theorem State.overrideSeg_draws (r : SegReg) : (s.overrideSeg r).draws = s.draws := rfl

/-! ### setRep -/

@[simp] theorem State.setRep_regs : (s.setRep).regs = s.regs := rfl
@[simp] theorem State.setRep_segs : (s.setRep).segs = s.segs := rfl
@[simp] theorem State.setRep_flags : (s.setRep).flags = s.flags := rfl
@[simp] theorem State.setRep_bus : (s.setRep).bus = s.bus := rfl
@[simp] theorem State.setRep_ads : (s.setRep).ads = s.ads := rfl
@[simp] theorem State.setRep_ovr : (s.setRep).ovr = s.ovr := rfl
@[simp] theorem State.setRep_rep : (s.setRep).rep = true := rfl
@[simp] theorem State.setRep_fault : (s.setRep).fault = s.fault := rfl
@[simp] theorem State.setRep_inh : (s.setRep).inh = s.inh := rfl
@[simp] theorem State.setRep_trace : (s.setRep).trace = s.trace := rfl
@[simp] theorem State.setRep_signal : (s.setRep).signal = s.signal := rfl
@[simp] theorem State.setRep_draws : (s.setRep).draws = s.draws := rfl

/-! ### useMem -/

@[simp] theorem State.useMem_regs (m : MemForm) : (s.useMem m).regs = s.regs := rfl
@[simp] theorem State.useMem_segs (m : MemForm) : (s.useMem m).segs = s.segs := rfl
@[simp] theorem State.useMem_flags (m : MemForm) : (s.useMem m).flags = s.flags := rfl
@[simp] theorem State.useMem_bus (m : MemForm) : (s.useMem m).bus = s.bus := rfl
@[simp] theorem State.useMem_ads (m : MemForm) : (s.useMem m).ads = s.memSeg m := rfl
@[simp] theorem State.useMem_ovr (m : MemForm) : (s.useMem m).ovr = s.ovr := rfl
@[simp] theorem State.useMem_rep (m : MemForm) : (s.useMem m).rep = s.rep := rfl
@[simp] theorem State.useMem_fault (m : MemForm) : (s.useMem m).fault = s.fault := rfl
@[simp] theorem State.useMem_inh (m : MemForm) : (s.useMem m).inh = s.inh := rfl
@[simp] theorem State.useMem_trace (m : MemForm) : (s.useMem m).trace = s.trace := rfl
@[simp] theorem State.useMem_signal (m : MemForm) : (s.useMem m).signal = s.signal := rfl
@[simp] theorem State.useMem_draws (m : MemForm) : (s.useMem m).draws = s.draws := rfl

/-! ### useRM -/

@[simp] theorem State.useRM_regs {R : Type} (e : RM R) : (s.useRM e).regs = s.regs := by cases e <;> rfl
@[simp] theorem State.useRM_segs {R : Type} (e : RM R) : (s.useRM e).segs = s.segs := by cases e <;> rfl
@[simp] theorem State.useRM_flags {R : Type} (e : RM R) : (s.useRM e).flags = s.flags := by cases e <;> rfl
@[simp] theorem State.useRM_bus {R : Type} (e : RM R) : (s.useRM e).bus = s.bus := by cases e <;> rfl
@[simp] theorem State.useRM_ovr {R : Type} (e : RM R) : (s.useRM e).ovr = s.ovr := by cases e <;> rfl
@[simp] theorem State.useRM_rep {R : Type} (e : RM R) : (s.useRM e).rep = s.rep := by cases e <;> rfl
@[simp] theorem State.useRM_fault {R : Type} (e : RM R) : (s.useRM e).fault = s.fault := by cases e <;> rfl
@[simp] theorem State.useRM_inh {R : Type} (e : RM R) : (s.useRM e).inh = s.inh := by cases e <;> rfl
@[simp] theorem State.useRM_trace {R : Type} (e : RM R) : (s.useRM e).trace = s.trace := by cases e <;> rfl
@[simp] theorem State.useRM_signal {R : Type} (e : RM R) : (s.useRM e).signal = s.signal := by cases e <;> rfl
@[simp] theorem State.useRM_draws {R : Type} (e : RM R) : (s.useRM e).draws = s.draws := by cases e <;> rfl

/-! ### saw8 -/

@[simp] theorem State.saw8_regs (l : Loc Reg8) : (s.saw8 l).regs = s.regs := by cases l <;> rfl
@[simp] theorem State.saw8_segs (l : Loc Reg8) : (s.saw8 l).segs = s.segs := by cases l <;> rfl
@[simp] theorem State.saw8_flags (l : Loc Reg8) : (s.saw8 l).flags = s.flags := by cases l <;> rfl
@[simp] theorem State.saw8_ads (l : Loc Reg8) : (s.saw8 l).ads = s.ads := by cases l <;> rfl
@[simp] theorem State.saw8_ovr (l : Loc Reg8) : (s.saw8 l).ovr = s.ovr := by cases l <;> rfl
@[simp] theorem State.saw8_rep (l : Loc Reg8) : (s.saw8 l).rep = s.rep := by cases l <;> rfl
@[simp] theorem State.saw8_fault (l : Loc Reg8) : (s.saw8 l).fault = s.fault := by cases l <;> rfl
@[simp] theorem State.saw8_inh (l : Loc Reg8) : (s.saw8 l).inh = s.inh := by cases l <;> rfl
@[simp] theorem State.saw8_trace (l : Loc Reg8) : (s.saw8 l).trace = s.trace := by cases l <;> rfl
@[simp] theorem State.saw8_signal (l : Loc Reg8) : (s.saw8 l).signal = s.signal := by cases l <;> rfl
@[simp] theorem State.saw8_draws (l : Loc Reg8) : (s.saw8 l).draws = s.draws := by cases l <;> rfl

/-! ### saw16 -/

@[simp] theorem State.saw16_regs (l : Loc Reg16) : (s.saw16 l).regs = s.regs := by cases l <;> rfl
@[simp] theorem State.saw16_segs (l : Loc Reg16) : (s.saw16 l).segs = s.segs := by cases l <;> rfl
@[simp] theorem State.saw16_flags (l : Loc Reg16) : (s.saw16 l).flags = s.flags := by cases l <;> rfl
@[simp] theorem State.saw16_ads (l : Loc Reg16) : (s.saw16 l).ads = s.ads := by cases l <;> rfl
@[simp] theorem State.saw16_ovr (l : Loc Reg16) : (s.saw16 l).ovr = s.ovr := by cases l <;> rfl
@[simp] theorem State.saw16_rep (l : Loc Reg16) : (s.saw16 l).rep = s.rep := by cases l <;> rfl
@[simp] theorem State.saw16_fault (l : Loc Reg16) : (s.saw16 l).fault = s.fault := by cases l <;> rfl
@[simp] theorem State.saw16_inh (l : Loc Reg16) : (s.saw16 l).inh = s.inh := by cases l <;> rfl
@[simp] theorem State.saw16_trace (l : Loc Reg16) : (s.saw16 l).trace = s.trace := by cases l <;> rfl
@[simp] theorem State.saw16_signal (l : Loc Reg16) : (s.saw16 l).signal = s.signal := by cases l <;> rfl
@[simp] theorem State.saw16_draws (l : Loc Reg16) : (s.saw16 l).draws = s.draws := by cases l <;> rfl

/-! ### write8 -/

@[simp] theorem State.write8_segs (l : Loc Reg8) (v : Byte) : (s.write8 l v).segs = s.segs := by cases l <;> rfl
@[simp] theorem State.write8_flags (l : Loc Reg8) (v : Byte) : (s.write8 l v).flags = s.flags := by cases l <;> rfl
@[simp] theorem State.write8_ads (l : Loc Reg8) (v : Byte) : (s.write8 l v).ads = s.ads := by cases l <;> rfl
@[simp] theorem State.write8_ovr (l : Loc Reg8) (v : Byte) : (s.write8 l v).ovr = s.ovr := by cases l <;> rfl
@[simp] theorem State.write8_rep (l : Loc Reg8) (v : Byte) : (s.write8 l v).rep = s.rep := by cases l <;> rfl
@[simp] theorem State.write8_fault (l : Loc Reg8) (v : Byte) : (s.write8 l v).fault = s.fault := by cases l <;> rfl
@[simp] theorem State.write8_inh (l : Loc Reg8) (v : Byte) : (s.write8 l v).inh = s.inh := by cases l <;> rfl
@[simp] theorem State.write8_trace (l : Loc Reg8) (v : Byte) : (s.write8 l v).trace = s.trace := by cases l <;> rfl
@[simp] theorem State.write8_signal (l : Loc Reg8) (v : Byte) : (s.write8 l v).signal = s.signal := by cases l <;> rfl
@[simp] theorem State.write8_draws (l : Loc Reg8) (v : Byte) : (s.write8 l v).draws = s.draws := by cases l <;> rfl

/-! ### write16 -/

@[simp] theorem State.write16_segs (l : Loc Reg16) (v : Word) : (s.write16 l v).segs = s.segs := by cases l <;> rfl
@[simp] theorem State.write16_flags (l : Loc Reg16) (v : Word) : (s.write16 l v).flags = s.flags := by cases l <;> rfl
@[simp] theorem State.write16_ads (l : Loc Reg16) (v : Word) : (s.write16 l v).ads = s.ads := by cases l <;> rfl
@[simp] theorem State.write16_ovr (l : Loc Reg16) (v : Word) : (s.write16 l v).ovr = s.ovr := by cases l <;> rfl
@[simp] theorem State.write16_rep (l : Loc Reg16) (v : Word) : (s.write16 l v).rep = s.rep := by cases l <;> rfl
@[simp] theorem State.write16_fault (l : Loc Reg16) (v : Word) : (s.write16 l v).fault = s.fault := by cases l <;> rfl
@[simp] theorem State.write16_inh (l : Loc Reg16) (v : Word) : (s.write16 l v).inh = s.inh := by cases l <;> rfl
@[simp] theorem State.write16_trace (l : Loc Reg16) (v : Word) : (s.write16 l v).trace = s.trace := by cases l <;> rfl
@[simp] theorem State.write16_signal (l : Loc Reg16) (v : Word) : (s.write16 l v).signal = s.signal := by cases l <;> rfl
@[simp] theorem State.write16_draws (l : Loc Reg16) (v : Word) : (s.write16 l v).draws = s.draws := by cases l <;> rfl

/-! ### fetched -/

@[simp] theorem State.fetched_regs (p : FetchPos) : (s.fetched p).regs = s.regs.setR16 .ip p.ip := rfl
@[simp] theorem State.fetched_segs (p : FetchPos) : (s.fetched p).segs = s.segs := rfl
@[simp] theorem State.fetched_flags (p : FetchPos) : (s.fetched p).flags = s.flags := rfl
@[simp] theorem State.fetched_bus (p : FetchPos) : (s.fetched p).bus = p.bus := rfl
@[simp] theorem State.fetched_ads (p : FetchPos) : (s.fetched p).ads = s.ads := rfl
@[simp] theorem State.fetched_ovr (p : FetchPos) : (s.fetched p).ovr = s.ovr := rfl
@[simp] theorem State.fetched_rep (p : FetchPos) : (s.fetched p).rep = s.rep := rfl
@[simp] theorem State.fetched_fault (p : FetchPos) : (s.fetched p).fault = s.fault := rfl
@[simp] theorem State.fetched_inh (p : FetchPos) : (s.fetched p).inh = s.inh := rfl
@[simp] theorem State.fetched_trace (p : FetchPos) : (s.fetched p).trace = s.trace := rfl
@[simp] theorem State.fetched_signal (p : FetchPos) : (s.fetched p).signal = s.signal := rfl
@[simp] theorem State.fetched_draws (p : FetchPos) : (s.fetched p).draws = s.draws := rfl

/-! ### onBus -/

@[simp] theorem State.onBus_regs (b : Bus) : (s.onBus b).regs = s.regs := rfl
@[simp] theorem State.onBus_segs (b : Bus) : (s.onBus b).segs = s.segs := rfl
@[simp] theorem State.onBus_flags (b : Bus) : (s.onBus b).flags = s.flags := rfl
@[simp] theorem State.onBus_bus (b : Bus) : (s.onBus b).bus = b := rfl
@[simp] theorem State.onBus_ads (b : Bus) : (s.onBus b).ads = s.ads := rfl
@[simp] theorem State.onBus_ovr (b : Bus) : (s.onBus b).ovr = s.ovr := rfl
@[simp] theorem State.onBus_rep (b : Bus) : (s.onBus b).rep = s.rep := rfl
@[simp] theorem State.onBus_fault (b : Bus) : (s.onBus b).fault = s.fault := rfl
@[simp] theorem State.onBus_inh (b : Bus) : (s.onBus b).inh = s.inh := rfl
@[simp] theorem State.onBus_trace (b : Bus) : (s.onBus b).trace = s.trace := rfl
@[simp] theorem State.onBus_signal (b : Bus) : (s.onBus b).signal = s.signal := rfl
@[simp] theorem State.onBus_draws (b : Bus) : (s.onBus b).draws = s.draws := rfl

/-! ### push16 -/

@[simp] theorem State.push16_regs (v : Word) : (s.push16 v).regs = s.regs.set16 .sp (s.get16 .sp - 2) := rfl
@[simp] theorem State.push16_segs (v : Word) : (s.push16 v).segs = s.segs := rfl
@[simp] theorem State.push16_flags (v : Word) : (s.push16 v).flags = s.flags := rfl
@[simp] theorem State.push16_bus (v : Word) : (s.push16 v).bus = s.bus.after (.writeWord (s.segAddr .ss (s.get16 .sp - 2)) v) := rfl
@[simp] theorem State.push16_ads (v : Word) : (s.push16 v).ads = s.ads := rfl
@[simp] theorem State.push16_ovr (v : Word) : (s.push16 v).ovr = s.ovr := rfl
@[simp] theorem State.push16_rep (v : Word) : (s.push16 v).rep = s.rep := rfl
@[simp] theorem State.push16_fault (v : Word) : (s.push16 v).fault = s.fault := rfl
@[simp] theorem State.push16_inh (v : Word) : (s.push16 v).inh = s.inh := rfl
@[simp] theorem State.push16_trace (v : Word) : (s.push16 v).trace = s.trace := rfl
@[simp] theorem State.push16_signal (v : Word) : (s.push16 v).signal = s.signal := rfl
@[simp] theorem State.push16_draws (v : Word) : (s.push16 v).draws = s.draws := rfl

/-! ### pop16 -/

@[simp] theorem State.pop16_regs : (s.pop16).regs = s.regs.set16 .sp (s.get16 .sp + 2) := rfl
@[simp] theorem State.pop16_segs : (s.pop16).segs = s.segs := rfl
@[simp] theorem State.pop16_flags : (s.pop16).flags = s.flags := rfl
@[simp] theorem State.pop16_bus : (s.pop16).bus = s.bus.after (.readWord (s.segAddr .ss (s.get16 .sp))) := rfl
@[simp] theorem State.pop16_ads : (s.pop16).ads = s.ads := rfl
@[simp] theorem State.pop16_ovr : (s.pop16).ovr = s.ovr := rfl
@[simp] theorem State.pop16_rep : (s.pop16).rep = s.rep := rfl
@[simp] theorem State.pop16_fault : (s.pop16).fault = s.fault := rfl
@[simp] theorem State.pop16_inh : (s.pop16).inh = s.inh := rfl
@[simp] theorem State.pop16_trace : (s.pop16).trace = s.trace := rfl
@[simp] theorem State.pop16_signal : (s.pop16).signal = s.signal := rfl
@[simp] theorem State.pop16_draws : (s.pop16).draws = s.draws := rfl

/-! ### jumpRel -/

@[simp] theorem State.jumpRel_regs (d : Word) : (s.jumpRel d).regs = s.regs.setR16 .ip (s.ip + d) := rfl
@[simp] theorem State.jumpRel_segs (d : Word) : (s.jumpRel d).segs = s.segs := rfl
@[simp] theorem State.jumpRel_flags (d : Word) : (s.jumpRel d).flags = s.flags := rfl
@[simp] theorem State.jumpRel_bus (d : Word) : (s.jumpRel d).bus = s.bus := rfl
@[simp] theorem State.jumpRel_ads (d : Word) : (s.jumpRel d).ads = s.ads := rfl
@[simp] theorem State.jumpRel_ovr (d : Word) : (s.jumpRel d).ovr = s.ovr := rfl
@[simp] theorem State.jumpRel_rep (d : Word) : (s.jumpRel d).rep = s.rep := rfl
@[simp] theorem State.jumpRel_fault (d : Word) : (s.jumpRel d).fault = s.fault := rfl
@[simp] theorem State.jumpRel_inh (d : Word) : (s.jumpRel d).inh = s.inh := rfl
@[simp] theorem State.jumpRel_trace (d : Word) : (s.jumpRel d).trace = s.trace := rfl
@[simp] theorem State.jumpRel_signal (d : Word) : (s.jumpRel d).signal = s.signal := rfl
@[simp] theorem State.jumpRel_draws (d : Word) : (s.jumpRel d).draws = s.draws := rfl

/-! ### jumpFar -/

@[simp] theorem State.jumpFar_regs (off sel : Word) : (s.jumpFar off sel).regs = s.regs.setR16 .ip off := rfl
@[simp] theorem State.jumpFar_segs (off sel : Word) : (s.jumpFar off sel).segs = s.segs.set .cs (.load sel) := rfl
@[simp] theorem State.jumpFar_flags (off sel : Word) : (s.jumpFar off sel).flags = s.flags := rfl
@[simp] theorem State.jumpFar_bus (off sel : Word) : (s.jumpFar off sel).bus = s.bus := rfl
@[simp] theorem State.jumpFar_ads (off sel : Word) : (s.jumpFar off sel).ads = s.ads := rfl
@[simp] theorem State.jumpFar_ovr (off sel : Word) : (s.jumpFar off sel).ovr = s.ovr := rfl
@[simp] theorem State.jumpFar_rep (off sel : Word) : (s.jumpFar off sel).rep = s.rep := rfl
@[simp] theorem State.jumpFar_fault (off sel : Word) : (s.jumpFar off sel).fault = s.fault := rfl
@[simp] theorem State.jumpFar_inh (off sel : Word) : (s.jumpFar off sel).inh = s.inh := rfl
@[simp] theorem State.jumpFar_trace (off sel : Word) : (s.jumpFar off sel).trace = s.trace := rfl
@[simp] theorem State.jumpFar_signal (off sel : Word) : (s.jumpFar off sel).signal = s.signal := rfl
@[simp] theorem State.jumpFar_draws (off sel : Word) : (s.jumpFar off sel).draws = s.draws := rfl

/-! ### applyHandler -/

@[simp] theorem State.applyHandler_regs (e : HandlerEffect) : (s.applyHandler e).regs = e.regs := rfl
@[simp] theorem State.applyHandler_segs (e : HandlerEffect) : (s.applyHandler e).segs = .load e.sels := rfl
@[simp] theorem State.applyHandler_flags (e : HandlerEffect) : (s.applyHandler e).flags = e.flags := rfl
@[simp] theorem State.applyHandler_bus (e : HandlerEffect) : (s.applyHandler e).bus = s.bus.run e.traffic := rfl
@[simp] theorem State.applyHandler_ads (e : HandlerEffect) : (s.applyHandler e).ads = s.ads := rfl
@[simp] theorem State.applyHandler_ovr (e : HandlerEffect) : (s.applyHandler e).ovr = s.ovr := rfl
@[simp] theorem State.applyHandler_rep (e : HandlerEffect) : (s.applyHandler e).rep = s.rep := rfl
@[simp] theorem State.applyHandler_fault (e : HandlerEffect) : (s.applyHandler e).fault = s.fault := rfl
@[simp] theorem State.applyHandler_inh (e : HandlerEffect) : (s.applyHandler e).inh = s.inh := rfl
@[simp] theorem State.applyHandler_trace (e : HandlerEffect) : (s.applyHandler e).trace = s.trace := rfl
@[simp] theorem State.applyHandler_signal (e : HandlerEffect) : (s.applyHandler e).signal = s.signal := rfl
@[simp] theorem State.applyHandler_draws (e : HandlerEffect) : (s.applyHandler e).draws = s.draws := rfl

/-! ### postReset -/

@[simp] theorem State.postReset_regs : (s.postReset).regs = s.regs := rfl
@[simp] theorem State.postReset_segs : (s.postReset).segs = s.segs := rfl
@[simp] theorem State.postReset_flags : (s.postReset).flags = s.flags := rfl
@[simp] theorem State.postReset_bus : (s.postReset).bus = s.bus := rfl
@[simp] theorem State.postReset_ads : (s.postReset).ads = .ds := rfl
@[simp] theorem State.postReset_ovr : (s.postReset).ovr = false := rfl
@[simp] theorem State.postReset_rep : (s.postReset).rep = false := rfl
@[simp] theorem State.postReset_fault : (s.postReset).fault = s.fault := rfl
@[simp] theorem State.postReset_inh : (s.postReset).inh = s.inh := rfl
@[simp] theorem State.postReset_trace : (s.postReset).trace = s.trace := rfl
@[simp] theorem State.postReset_signal : (s.postReset).signal = none := rfl
@[simp] theorem State.postReset_draws : (s.postReset).draws = s.draws := rfl

/-! ### advanceSi -/

@[simp] theorem State.advanceSi_regs : (s.advanceSi).regs = s.regs.set16 .si (s.get16 .si + s.delta) := rfl
@[simp] theorem State.advanceSi_segs : (s.advanceSi).segs = s.segs := rfl
@[simp] theorem State.advanceSi_flags : (s.advanceSi).flags = s.flags := rfl
@[simp] theorem State.advanceSi_bus : (s.advanceSi).bus = s.bus := rfl
@[simp] theorem State.advanceSi_ads : (s.advanceSi).ads = s.ads := rfl
@[simp] theorem State.advanceSi_ovr : (s.advanceSi).ovr = s.ovr := rfl
@[simp] theorem State.advanceSi_rep : (s.advanceSi).rep = s.rep := rfl
@[simp] theorem State.advanceSi_fault : (s.advanceSi).fault = s.fault := rfl
@[simp] theorem State.advanceSi_inh : (s.advanceSi).inh = s.inh := rfl
@[simp] theorem State.advanceSi_trace : (s.advanceSi).trace = s.trace := rfl
@[simp] theorem State.advanceSi_signal : (s.advanceSi).signal = s.signal := rfl
@[simp] theorem State.advanceSi_draws : (s.advanceSi).draws = s.draws := rfl

/-! ### advanceDi -/

@[simp] theorem State.advanceDi_regs : (s.advanceDi).regs = s.regs.set16 .di (s.get16 .di + s.delta) := rfl
@[simp] theorem State.advanceDi_segs : (s.advanceDi).segs = s.segs := rfl
@[simp] theorem State.advanceDi_flags : (s.advanceDi).flags = s.flags := rfl
@[simp] theorem State.advanceDi_bus : (s.advanceDi).bus = s.bus := rfl
@[simp] theorem State.advanceDi_ads : (s.advanceDi).ads = s.ads := rfl
@[simp] theorem State.advanceDi_ovr : (s.advanceDi).ovr = s.ovr := rfl
@[simp] theorem State.advanceDi_rep : (s.advanceDi).rep = s.rep := rfl
@[simp] theorem State.advanceDi_fault : (s.advanceDi).fault = s.fault := rfl
@[simp] theorem State.advanceDi_inh : (s.advanceDi).inh = s.inh := rfl
@[simp] theorem State.advanceDi_trace : (s.advanceDi).trace = s.trace := rfl
@[simp] theorem State.advanceDi_signal : (s.advanceDi).signal = s.signal := rfl
@[simp] theorem State.advanceDi_draws : (s.advanceDi).draws = s.draws := rfl

/-! ### decCx -/

@[simp] theorem State.decCx_regs : (s.decCx).regs = s.regs.set16 .cx (s.get16 .cx - 1) := rfl
@[simp] theorem State.decCx_segs : (s.decCx).segs = s.segs := rfl
@[simp] theorem State.decCx_flags : (s.decCx).flags = s.flags := rfl
@[simp] theorem State.decCx_bus : (s.decCx).bus = s.bus := rfl
@[simp] theorem State.decCx_ads : (s.decCx).ads = s.ads := rfl
@[simp] theorem State.decCx_ovr : (s.decCx).ovr = s.ovr := rfl
@[simp] theorem State.decCx_rep : (s.decCx).rep = s.rep := rfl
@[simp] theorem State.decCx_fault : (s.decCx).fault = s.fault := rfl
@[simp] theorem State.decCx_inh : (s.decCx).inh = s.inh := rfl
@[simp] theorem State.decCx_trace : (s.decCx).trace = s.trace := rfl
@[simp] theorem State.decCx_signal : (s.decCx).signal = s.signal := rfl
@[simp] theorem State.decCx_draws : (s.decCx).draws = s.draws := rfl

/-! ### The segment file -/

@[simp] theorem SegFile.get_set (f : SegFile) (r q : SegReg) (e : SegEntry) :
    (f.set r e).get q = if q = r then e else f.get q := by
  cases r <;> cases q <;> rfl

@[simp] theorem SegEntry.load_sel (v : Word) : (SegEntry.load v).sel = v := rfl

@[simp] theorem SegEntry.load_base (v : Word) : (SegEntry.load v).base = v.setWidth 32 <<< 4 := rfl

/-! ### Views of the state that read a field -/

theorem State.segAddr_congr {s t : State} (h : t.segs = s.segs) (r : SegReg) (off : Word) :
    t.segAddr r off = s.segAddr r off := by
  simp only [State.segAddr, h]

theorem State.readByte_congr {s t : State} (h : t.bus = s.bus) (a : Addr) : t.readByte a = s.readByte a := by
  simp only [State.readByte, h]

theorem State.readWord_congr {s t : State} (h : t.bus = s.bus) (a : Addr) : t.readWord a = s.readWord a := by
  simp only [State.readWord, h]

theorem State.flag_congr {s t : State} (h : t.flags = s.flags) (x : Flag) : t.flag x = s.flag x := by
  simp only [State.flag, h]

end Sys2Proof.Machine
end

