-- ==== Sys2Proof/Laws/Memory.lean ====
section
/-! SUPPORT. Plain memory: read after write, every operation keeps the canonical form, and every content is some list
(20_memory.md R80, R84). The bus over it: what an operation does to plain memory and to the devices. -/

namespace Sys2Proof.Machine

/-- A write leaves every other address alone, in any memory. -/
theorem Memory.get_set_other (m : Memory) {a b : Nat} (v : Byte) (h : b ≠ a) :
    Memory.get (Memory.set m a v) b = Memory.get m b := by
  induction m with
  | nil => by_cases hv : v = Config.unlistedByte <;> simp [Memory.set, Memory.get, hv, h]
  | cons c m ih =>
    obtain ⟨k, x⟩ := c
    simp only [Memory.set]
    split
    · split <;> simp [Memory.get, h]
    · split
      · subst a
        split <;> simp [Memory.get, h]
      · simp only [Memory.get, ih]

/-- Addresses below every listed one read as unlisted. -/
theorem Memory.get_below (m : Memory) (a : Nat) (h : ∀ c ∈ m, a < c.1) : Memory.get m a = Config.unlistedByte := by
  induction m with
  | nil => rfl
  | cons c m ih =>
    have hc := h c (by simp)
    simp only [Memory.get, if_neg (Nat.ne_of_lt hc)]
    exact ih fun d hd => h d (by simp [hd])

/-- A read after a write to the same address gives the value written, in a memory in canonical form. -/
theorem Memory.get_set_same (m : Memory) (a : Nat) (v : Byte) (hm : m.Pairwise fun x y => x.1 < y.1) :
    Memory.get (Memory.set m a v) a = v := by
  induction m with
  | nil => by_cases hv : v = Config.unlistedByte <;> simp [Memory.set, Memory.get, hv]
  | cons c m ih =>
    obtain ⟨k, x⟩ := c
    obtain ⟨hk, hm'⟩ := List.pairwise_cons.mp hm
    simp only [Memory.set]
    split
    · rename_i hlt
      split
      · rename_i hv
        rw [hv]
        exact Memory.get_below _ _ fun d hd => by
          rcases List.mem_cons.mp hd with rfl | hd
          · exact hlt
          · exact hlt.trans (hk d hd)
      · simp [Memory.get]
    · split
      · subst a
        split
        · rename_i hv
          rw [hv]
          exact Memory.get_below _ _ hk
        · simp [Memory.get]
      · rename_i hne
        simp only [Memory.get, if_neg hne]
        exact ih hm'

/-- Every entry after a write is the written one or an entry from before. -/
theorem Memory.mem_set {m : Memory} {a : Nat} {v : Byte} {c : Nat × Byte} (h : c ∈ Memory.set m a v) :
    (c = (a, v) ∧ v ≠ Config.unlistedByte) ∨ c ∈ m := by
  induction m with
  | nil =>
    by_cases hv : v = Config.unlistedByte
    · simp [Memory.set, hv] at h
    · left; simpa [Memory.set, hv] using h
  | cons d m ih =>
    obtain ⟨k, x⟩ := d
    simp only [Memory.set] at h
    split at h
    · split at h
      · exact .inr h
      · rename_i hv
        rcases List.mem_cons.mp h with rfl | h
        · exact .inl ⟨rfl, hv⟩
        · exact .inr h
    · split at h
      · split at h
        · exact .inr (by simp [h])
        · rename_i hv
          rcases List.mem_cons.mp h with rfl | h
          · exact .inl ⟨rfl, hv⟩
          · exact .inr (by simp [h])
      · rcases List.mem_cons.mp h with rfl | h
        · exact .inr (by simp)
        · rcases ih h with h | h
          · exact .inl h
          · exact .inr (by simp [h])

/-- A write keeps the addresses strictly rising. -/
theorem Memory.set_pairwise (m : Memory) (a : Nat) (v : Byte) (hm : m.Pairwise fun x y => x.1 < y.1) :
    (Memory.set m a v).Pairwise fun x y => x.1 < y.1 := by
  induction m with
  | nil => by_cases hv : v = Config.unlistedByte <;> simp [Memory.set, hv]
  | cons c m ih =>
    obtain ⟨k, x⟩ := c
    obtain ⟨hk, hm'⟩ := List.pairwise_cons.mp hm
    simp only [Memory.set]
    split
    · rename_i hlt
      split
      · exact hm
      · refine List.pairwise_cons.mpr ⟨fun d hd => ?_, hm⟩
        rcases List.mem_cons.mp hd with rfl | hd
        · exact hlt
        · exact hlt.trans (hk d hd)
    · split
      · subst a
        split
        · exact hm'
        · exact List.pairwise_cons.mpr ⟨hk, hm'⟩
      · refine List.pairwise_cons.mpr ⟨fun d hd => ?_, ih hm'⟩
        rcases Memory.mem_set hd with ⟨rfl, -⟩ | hd
        · simp only; omega
        · exact hk d hd

/-- Every write keeps the canonical form. -/
theorem Memory.set_wf {m : Memory} {a : Nat} (v : Byte) (ha : a < 2 ^ 32) (hm : Memory.wf m) :
    Memory.wf (Memory.set m a v) :=
  ⟨Memory.set_pairwise m a v hm.1, fun _ hc => by
    rcases Memory.mem_set hc with ⟨rfl, hv⟩ | hc
    · exact ⟨ha, hv⟩
    · exact hm.2 _ hc⟩

theorem Memory.writeByte_wf {m : Memory} (a : Addr) (v : Byte) (hm : Memory.wf m) :
    Memory.wf (Memory.writeByte m a v) :=
  Memory.set_wf v a.isLt hm

theorem Memory.writeWord_wf {m : Memory} (a : Addr) (v : Word) (hm : Memory.wf m) :
    Memory.wf (Memory.writeWord m a v) :=
  Memory.writeByte_wf _ _ (Memory.writeByte_wf _ _ hm)

theorem Memory.readByte_writeByte_other (m : Memory) {a b : Addr} (v : Byte) (h : b ≠ a) :
    Memory.readByte (Memory.writeByte m a v) b = Memory.readByte m b :=
  Memory.get_set_other m v fun he => h (BitVec.eq_of_toNat_eq he)

theorem Memory.readByte_writeByte_same {m : Memory} (a : Addr) (v : Byte) (hm : Memory.wf m) :
    Memory.readByte (Memory.writeByte m a v) a = v :=
  Memory.get_set_same m a.toNat v hm.1

/-- The second byte of a word is at another address than the first. -/
theorem addr_succ_ne (a : Addr) : a + 1 ≠ a := by
  intro h
  have : (1 : Addr) = 0 := by simpa using congrArg (· - a) h
  exact absurd this (by decide)

theorem Memory.readByte_writeWord_other (m : Memory) {a b : Addr} (v : Word) (h : b ≠ a) (h1 : b ≠ a + 1) :
    Memory.readByte (Memory.writeWord m a v) b = Memory.readByte m b := by
  rw [Memory.writeWord, Memory.readByte_writeByte_other _ _ h1, Memory.readByte_writeByte_other _ _ h]

theorem Memory.readByte_writeWord_low {m : Memory} (a : Addr) (v : Word) (hm : Memory.wf m) :
    Memory.readByte (Memory.writeWord m a v) a = loByte v := by
  rw [Memory.writeWord, Memory.readByte_writeByte_other _ _ (addr_succ_ne a).symm,
    Memory.readByte_writeByte_same _ _ hm]

theorem Memory.readByte_writeWord_high {m : Memory} (a : Addr) (v : Word) (hm : Memory.wf m) :
    Memory.readByte (Memory.writeWord m a v) (a + 1) = hiByte v := by
  rw [Memory.writeWord, Memory.readByte_writeByte_same _ _ (Memory.writeByte_wf _ _ hm)]

theorem Memory.readWord_writeWord_same {m : Memory} (a : Addr) (v : Word) (hm : Memory.wf m) :
    Memory.readWord (Memory.writeWord m a v) a = v := by
  rw [Memory.readWord, Memory.readByte_writeWord_low _ _ hm, Memory.readByte_writeWord_high _ _ hm, wordOf_lo_hi]

/-- Every content is that of some list in canonical form: the content of memory is an argument of the model (00_scope.md
R6, notes/assumptions/1.md). -/
theorem Memory.exists_of_content (f : Addr → Byte) : ∃ m, Memory.wf m ∧ ∀ a, Memory.readByte m a = f a := by
  have h : ∀ n ≤ 2 ^ 32, ∃ m, Memory.wf m ∧ ∀ a : Addr, a.toNat < n → Memory.readByte m a = f a := by
    intro n
    induction n with
    | zero => exact fun _ => ⟨[], ⟨List.Pairwise.nil, fun _ h => nomatch h⟩, fun _ h => absurd h (Nat.not_lt_zero _)⟩
    | succ n ih =>
      intro hn
      obtain ⟨m, hm, hf⟩ := ih (by omega)
      refine ⟨Memory.writeByte m (BitVec.ofNat 32 n) (f (BitVec.ofNat 32 n)), Memory.writeByte_wf _ _ hm, fun a ha => ?_⟩
      by_cases he : a = BitVec.ofNat 32 n
      · rw [he, Memory.readByte_writeByte_same _ _ hm]
      · rw [Memory.readByte_writeByte_other _ _ he]
        refine hf a (Nat.lt_of_le_of_ne (by omega) fun h => he ?_)
        rw [← h, BitVec.ofNat_toNat, BitVec.setWidth_eq]
  obtain ⟨m, hm, hf⟩ := h _ (Nat.le_refl _)
  exact ⟨m, hm, fun a => hf a a.isLt⟩

/-! ### The bus -/

@[simp] theorem Bus.run_nil (b : Bus) : b.run [] = b := rfl

@[simp] theorem Bus.run_cons (b : Bus) (op : BusOp) (ops : List BusOp) : b.run (op :: ops) = (b.after op).run ops := rfl

theorem Bus.run_append (b : Bus) (xs ys : List BusOp) : b.run (xs ++ ys) = (b.run xs).run ys := List.foldl_append ..

/-- No operation moves a device. -/
@[simp] theorem Bus.after_devices (b : Bus) (op : BusOp) : (b.after op).devices = b.devices := by
  rw [Bus.after]
  split <;> rfl

@[simp] theorem Bus.isDevice_after (b : Bus) (op : BusOp) (a : Addr) : (b.after op).isDevice a = b.isDevice a := by
  rw [Bus.isDevice, Bus.after_devices, Bus.isDevice]

@[simp] theorem Bus.atDevice_after (b : Bus) (op o : BusOp) : (b.after op).atDevice o = b.atDevice o := by
  cases o <;> simp [Bus.atDevice, BusOp.addrs]

@[simp] theorem Bus.run_devices (b : Bus) (ops : List BusOp) : (b.run ops).devices = b.devices := by
  induction ops generalizing b with
  | nil => rfl
  | cons op ops ih => rw [Bus.run_cons, ih, Bus.after_devices]

@[simp] theorem Bus.isDevice_run (b : Bus) (ops : List BusOp) (a : Addr) : (b.run ops).isDevice a = b.isDevice a := by
  rw [Bus.isDevice, Bus.run_devices, Bus.isDevice]

/-- The devices' history only grows. -/
theorem Bus.after_log (b : Bus) (op : BusOp) : ∃ more, (b.after op).log = b.log ++ more := by
  rw [Bus.after]
  split
  · exact ⟨[op], rfl⟩
  · exact ⟨[], (List.append_nil _).symm⟩

theorem Bus.run_log (b : Bus) (ops : List BusOp) : ∃ more, (b.run ops).log = b.log ++ more := by
  induction ops generalizing b with
  | nil => exact ⟨[], (List.append_nil _).symm⟩
  | cons op ops ih =>
    obtain ⟨x, hx⟩ := b.after_log op
    obtain ⟨y, hy⟩ := ih (b.after op)
    exact ⟨x ++ y, by rw [Bus.run_cons, hy, hx, List.append_assoc]⟩

theorem Memory.after_wf {m : Memory} (op : BusOp) (hm : Memory.wf m) : Memory.wf (Memory.after m op) := by
  cases op with
  | readByte a => exact hm
  | readWord a => exact hm
  | writeByte a v => exact Memory.writeByte_wf a v hm
  | writeWord a v => exact Memory.writeWord_wf a v hm

/-- Every bus operation keeps the canonical form of plain memory. -/
theorem Bus.after_wf {b : Bus} (op : BusOp) (h : Memory.wf b.ram) : Memory.wf (b.after op).ram := by
  rw [Bus.after]
  split
  · exact h
  · exact Memory.after_wf op h

theorem Bus.run_wf {b : Bus} (ops : List BusOp) (h : Memory.wf b.ram) : Memory.wf (b.run ops).ram := by
  induction ops generalizing b with
  | nil => exact h
  | cons op ops ih => exact ih (Bus.after_wf op h)

/-! ### Plain memory behind the bus (20_memory.md R80, R84, R89) -/

theorem Bus.atDevice_byte {b : Bus} {a : Addr} (h : b.isDevice a = false) (v : Byte) :
    b.atDevice (.readByte a) = false ∧ b.atDevice (.writeByte a v) = false := by
  simp [Bus.atDevice, BusOp.addrs, h]

theorem Bus.atDevice_word {b : Bus} {a : Addr} (h : b.isDevice a = false) (h1 : b.isDevice (a + 1) = false) (v : Word) :
    b.atDevice (.readWord a) = false ∧ b.atDevice (.writeWord a v) = false := by
  simpa [Bus.atDevice, BusOp.addrs, h] using h1

/-- A read of plain memory has no side effect. -/
theorem Bus.after_readByte {b : Bus} {a : Addr} (h : b.isDevice a = false) : b.after (.readByte a) = b := by
  simp [Bus.after, Bus.atDevice_byte h 0, Memory.after]

theorem Bus.after_readWord {b : Bus} {a : Addr} (h : b.isDevice a = false) (h1 : b.isDevice (a + 1) = false) :
    b.after (.readWord a) = b := by
  simp [Bus.after, Bus.atDevice_word h h1 0, Memory.after]

theorem Bus.after_writeByte {b : Bus} {a : Addr} (v : Byte) (h : b.isDevice a = false) :
    b.after (.writeByte a v) = { b with ram := Memory.writeByte b.ram a v } := by
  simp [Bus.after, Bus.atDevice_byte h v, Memory.after]

theorem Bus.after_writeWord {b : Bus} {a : Addr} (v : Word) (h : b.isDevice a = false) (h1 : b.isDevice (a + 1) = false) :
    b.after (.writeWord a v) = { b with ram := Memory.writeWord b.ram a v } := by
  simp [Bus.after, Bus.atDevice_word h h1 v, Memory.after]

theorem Bus.readByte_plain {b : Bus} {a : Addr} (h : b.isDevice a = false) : b.readByte a = Memory.readByte b.ram a := by
  simp [Bus.readByte, Bus.atDevice_byte h 0]

/-- A word of plain memory is its two bytes. -/
theorem Bus.readWord_plain {b : Bus} {a : Addr} (h : b.isDevice a = false) (h1 : b.isDevice (a + 1) = false) :
    b.readWord a = wordOf (b.readByte a) (b.readByte (a + 1)) := by
  rw [Bus.readWord, (Bus.atDevice_word h h1 0).1, Bus.readByte_plain h, Bus.readByte_plain h1]
  rfl

/-- A byte of plain memory that an operation does not store to reads as before. -/
theorem Bus.readByte_after_other {b : Bus} {op : BusOp} {a : Addr} (h : b.isDevice a = false) (ha : a ∉ op.stores) :
    (b.after op).readByte a = b.readByte a := by
  rw [Bus.readByte_plain (by simpa using h), Bus.readByte_plain h, Bus.after]
  split
  · rfl
  · cases op with
    | readByte x => rfl
    | readWord x => rfl
    | writeByte x v => exact Memory.readByte_writeByte_other _ _ (by simpa [BusOp.stores] using ha)
    | writeWord x v =>
      have : a ≠ x ∧ a ≠ x + 1 := by simpa [BusOp.stores] using ha
      exact Memory.readByte_writeWord_other _ _ this.1 this.2

theorem Bus.readByte_run_other {b : Bus} {ops : List BusOp} {a : Addr} (h : b.isDevice a = false)
    (ha : a ∉ ops.flatMap BusOp.stores) : (b.run ops).readByte a = b.readByte a := by
  induction ops generalizing b with
  | nil => rfl
  | cons op ops ih =>
    have : a ∉ op.stores ∧ a ∉ ops.flatMap BusOp.stores := by simpa using ha
    rw [Bus.run_cons, ih (by simpa using h) this.2, Bus.readByte_after_other h this.1]

theorem Bus.readByte_after_writeByte {b : Bus} {a : Addr} (v : Byte) (hm : Memory.wf b.ram) (h : b.isDevice a = false) :
    (b.after (.writeByte a v)).readByte a = v := by
  rw [Bus.readByte_plain (by simpa using h), Bus.after_writeByte v h]
  exact Memory.readByte_writeByte_same a v hm

theorem Bus.readByte_after_writeWord {b : Bus} {a : Addr} (v : Word) (hm : Memory.wf b.ram) (h : b.isDevice a = false)
    (h1 : b.isDevice (a + 1) = false) :
    (b.after (.writeWord a v)).readByte a = loByte v ∧ (b.after (.writeWord a v)).readByte (a + 1) = hiByte v := by
  rw [Bus.readByte_plain (by simpa using h), Bus.readByte_plain (by simpa using h1), Bus.after_writeWord v h h1]
  exact ⟨Memory.readByte_writeWord_low a v hm, Memory.readByte_writeWord_high a v hm⟩

/-- A word read after a word write to the same plain memory gives the word written. -/
theorem Bus.readWord_after_writeWord {b : Bus} {a : Addr} (v : Word) (hm : Memory.wf b.ram) (h : b.isDevice a = false)
    (h1 : b.isDevice (a + 1) = false) : (b.after (.writeWord a v)).readWord a = v := by
  rw [Bus.readWord_plain (by simpa using h) (by simpa using h1), (Bus.readByte_after_writeWord v hm h h1).1,
    (Bus.readByte_after_writeWord v hm h h1).2, wordOf_lo_hi]

end Sys2Proof.Machine
end

