-- ==== Sys2Proof/Laws/Exec.lean ====
section
/-! SUPPORT. Instructions by family, what `exec` answers family by family, and once for all instructions what a meaning
can write: `exec_moves`. The rules about every instruction (10_state.md R35, R42, R43, R47, R49) follow from it by a
short induction over `Moves`. -/

namespace Sys2Proof.Machine

/-! ### The families of `Instr` -/

/-- Case analysis on an instruction with the 72 arithmetic rows as one case and the 16 conditional jumps as one. -/
theorem Instr.byFamily {P : Instr → Prop}
    (alu : ∀ op f, P (.alu op f))
    (jcc : ∀ c d, P (.jcc c d))
    (mulRm8 : ∀ e, P (.mulRm8 e))
    (mulRm16 : ∀ e, P (.mulRm16 e))
    (divRm16 : ∀ e, P (.divRm16 e))
    (movRm8R8 : ∀ e g, P (.movRm8R8 e g))
    (movRm16R16 : ∀ e g, P (.movRm16R16 e g))
    (movR8Rm8 : ∀ g e, P (.movR8Rm8 g e))
    (movR16Rm16 : ∀ g e, P (.movR16Rm16 g e))
    (movRm16Sreg : ∀ e sr, P (.movRm16Sreg e sr))
    (movSregRm16 : ∀ sr e, P (.movSregRm16 sr e))
    (leaR16M : ∀ g m, P (.leaR16M g m))
    (movAlMoffs8 : ∀ off, P (.movAlMoffs8 off))
    (movAxMoffs16 : ∀ off, P (.movAxMoffs16 off))
    (movMoffs8Al : ∀ off, P (.movMoffs8Al off))
    (movMoffs16Ax : ∀ off, P (.movMoffs16Ax off))
    (movR8Imm8 : ∀ r ib, P (.movR8Imm8 r ib))
    (movR16Imm16 : ∀ r iw, P (.movR16Imm16 r iw))
    (movRm8Imm8 : ∀ e ib, P (.movRm8Imm8 e ib))
    (movRm16Imm16 : ∀ e iw, P (.movRm16Imm16 e iw))
    (nop : P .nop)
    (pushR16 : ∀ r, P (.pushR16 r))
    (popR16 : ∀ r, P (.popR16 r))
    (pushEs : P .pushEs)
    (pushCs : P .pushCs)
    (pushSs : P .pushSs)
    (pushDs : P .pushDs)
    (popEs : P .popEs)
    (popSs : P .popSs)
    (popDs : P .popDs)
    (jmpRel8 : ∀ d, P (.jmpRel8 d))
    (jmpRel16 : ∀ d, P (.jmpRel16 d))
    (jmpFar : ∀ off sel, P (.jmpFar off sel))
    (callRel16 : ∀ d, P (.callRel16 d))
    (callFar : ∀ off sel, P (.callFar off sel))
    (ret : P .ret)
    (retImm16 : ∀ iw, P (.retImm16 iw))
    (retf : P .retf)
    (retfImm16 : ∀ iw, P (.retfImm16 iw))
    (movsb : P .movsb)
    (cmpsb : P .cmpsb)
    (lodsb : P .lodsb)
    (intImm8 : ∀ n, P (.intImm8 n))
    (clc : P .clc)
    (stc : P .stc)
    (cmc : P .cmc)
    (cli : P .cli)
    (sti : P .sti)
    (cld : P .cld)
    (std : P .std)
    (esOverride : P .esOverride)
    (csOverride : P .csOverride)
    (ssOverride : P .ssOverride)
    (dsOverride : P .dsOverride)
    (fsOverride : P .fsOverride)
    (gsOverride : P .gsOverride)
    (repPrefix : P .repPrefix)
    (i : Instr) : P i :=
  match i with
  | .addRm8R8 e g => alu .add (.rm8r8 e g)
  | .addRm16R16 e g => alu .add (.rm16r16 e g)
  | .addR8Rm8 g e => alu .add (.r8rm8 g e)
  | .addR16Rm16 g e => alu .add (.r16rm16 g e)
  | .addAlImm8 ib => alu .add (.alImm8 ib)
  | .addAxImm16 iw => alu .add (.axImm16 iw)
  | .addRm8Imm8 e ib => alu .add (.rm8Imm8 e ib)
  | .addRm16Imm16 e iw => alu .add (.rm16Imm16 e iw)
  | .addRm16Imm8 e ib => alu .add (.rm16Imm8 e ib)
  | .orRm8R8 e g => alu .or (.rm8r8 e g)
  | .orRm16R16 e g => alu .or (.rm16r16 e g)
  | .orR8Rm8 g e => alu .or (.r8rm8 g e)
  | .orR16Rm16 g e => alu .or (.r16rm16 g e)
  | .orAlImm8 ib => alu .or (.alImm8 ib)
  | .orAxImm16 iw => alu .or (.axImm16 iw)
  | .orRm8Imm8 e ib => alu .or (.rm8Imm8 e ib)
  | .orRm16Imm16 e iw => alu .or (.rm16Imm16 e iw)
  | .orRm16Imm8 e ib => alu .or (.rm16Imm8 e ib)
  | .adcRm8R8 e g => alu .adc (.rm8r8 e g)
  | .adcRm16R16 e g => alu .adc (.rm16r16 e g)
  | .adcR8Rm8 g e => alu .adc (.r8rm8 g e)
  | .adcR16Rm16 g e => alu .adc (.r16rm16 g e)
  | .adcAlImm8 ib => alu .adc (.alImm8 ib)
  | .adcAxImm16 iw => alu .adc (.axImm16 iw)
  | .adcRm8Imm8 e ib => alu .adc (.rm8Imm8 e ib)
  | .adcRm16Imm16 e iw => alu .adc (.rm16Imm16 e iw)
  | .adcRm16Imm8 e ib => alu .adc (.rm16Imm8 e ib)
  | .sbbRm8R8 e g => alu .sbb (.rm8r8 e g)
  | .sbbRm16R16 e g => alu .sbb (.rm16r16 e g)
  | .sbbR8Rm8 g e => alu .sbb (.r8rm8 g e)
  | .sbbR16Rm16 g e => alu .sbb (.r16rm16 g e)
  | .sbbAlImm8 ib => alu .sbb (.alImm8 ib)
  | .sbbAxImm16 iw => alu .sbb (.axImm16 iw)
  | .sbbRm8Imm8 e ib => alu .sbb (.rm8Imm8 e ib)
  | .sbbRm16Imm16 e iw => alu .sbb (.rm16Imm16 e iw)
  | .sbbRm16Imm8 e ib => alu .sbb (.rm16Imm8 e ib)
  | .andRm8R8 e g => alu .and (.rm8r8 e g)
  | .andRm16R16 e g => alu .and (.rm16r16 e g)
  | .andR8Rm8 g e => alu .and (.r8rm8 g e)
  | .andR16Rm16 g e => alu .and (.r16rm16 g e)
  | .andAlImm8 ib => alu .and (.alImm8 ib)
  | .andAxImm16 iw => alu .and (.axImm16 iw)
  | .andRm8Imm8 e ib => alu .and (.rm8Imm8 e ib)
  | .andRm16Imm16 e iw => alu .and (.rm16Imm16 e iw)
  | .andRm16Imm8 e ib => alu .and (.rm16Imm8 e ib)
  | .subRm8R8 e g => alu .sub (.rm8r8 e g)
  | .subRm16R16 e g => alu .sub (.rm16r16 e g)
  | .subR8Rm8 g e => alu .sub (.r8rm8 g e)
  | .subR16Rm16 g e => alu .sub (.r16rm16 g e)
  | .subAlImm8 ib => alu .sub (.alImm8 ib)
  | .subAxImm16 iw => alu .sub (.axImm16 iw)
  | .subRm8Imm8 e ib => alu .sub (.rm8Imm8 e ib)
  | .subRm16Imm16 e iw => alu .sub (.rm16Imm16 e iw)
  | .subRm16Imm8 e ib => alu .sub (.rm16Imm8 e ib)
  | .xorRm8R8 e g => alu .xor (.rm8r8 e g)
  | .xorRm16R16 e g => alu .xor (.rm16r16 e g)
  | .xorR8Rm8 g e => alu .xor (.r8rm8 g e)
  | .xorR16Rm16 g e => alu .xor (.r16rm16 g e)
  | .xorAlImm8 ib => alu .xor (.alImm8 ib)
  | .xorAxImm16 iw => alu .xor (.axImm16 iw)
  | .xorRm8Imm8 e ib => alu .xor (.rm8Imm8 e ib)
  | .xorRm16Imm16 e iw => alu .xor (.rm16Imm16 e iw)
  | .xorRm16Imm8 e ib => alu .xor (.rm16Imm8 e ib)
  | .cmpRm8R8 e g => alu .cmp (.rm8r8 e g)
  | .cmpRm16R16 e g => alu .cmp (.rm16r16 e g)
  | .cmpR8Rm8 g e => alu .cmp (.r8rm8 g e)
  | .cmpR16Rm16 g e => alu .cmp (.r16rm16 g e)
  | .cmpAlImm8 ib => alu .cmp (.alImm8 ib)
  | .cmpAxImm16 iw => alu .cmp (.axImm16 iw)
  | .cmpRm8Imm8 e ib => alu .cmp (.rm8Imm8 e ib)
  | .cmpRm16Imm16 e iw => alu .cmp (.rm16Imm16 e iw)
  | .cmpRm16Imm8 e ib => alu .cmp (.rm16Imm8 e ib)
  | .joRel8 d => jcc .o d
  | .jnoRel8 d => jcc .no d
  | .jbRel8 d => jcc .b d
  | .jnbRel8 d => jcc .nb d
  | .jzRel8 d => jcc .z d
  | .jnzRel8 d => jcc .nz d
  | .jbeRel8 d => jcc .be d
  | .jaRel8 d => jcc .a d
  | .jsRel8 d => jcc .s d
  | .jnsRel8 d => jcc .ns d
  | .jpRel8 d => jcc .p d
  | .jnpRel8 d => jcc .np d
  | .jlRel8 d => jcc .l d
  | .jgeRel8 d => jcc .ge d
  | .jleRel8 d => jcc .le d
  | .jgRel8 d => jcc .g d
  | .mulRm8 e => mulRm8 e
  | .mulRm16 e => mulRm16 e
  | .divRm16 e => divRm16 e
  | .movRm8R8 e g => movRm8R8 e g
  | .movRm16R16 e g => movRm16R16 e g
  | .movR8Rm8 g e => movR8Rm8 g e
  | .movR16Rm16 g e => movR16Rm16 g e
  | .movRm16Sreg e sr => movRm16Sreg e sr
  | .movSregRm16 sr e => movSregRm16 sr e
  | .leaR16M g m => leaR16M g m
  | .movAlMoffs8 off => movAlMoffs8 off
  | .movAxMoffs16 off => movAxMoffs16 off
  | .movMoffs8Al off => movMoffs8Al off
  | .movMoffs16Ax off => movMoffs16Ax off
  | .movR8Imm8 r ib => movR8Imm8 r ib
  | .movR16Imm16 r iw => movR16Imm16 r iw
  | .movRm8Imm8 e ib => movRm8Imm8 e ib
  | .movRm16Imm16 e iw => movRm16Imm16 e iw
  | .nop => nop
  | .pushR16 r => pushR16 r
  | .popR16 r => popR16 r
  | .pushEs => pushEs
  | .pushCs => pushCs
  | .pushSs => pushSs
  | .pushDs => pushDs
  | .popEs => popEs
  | .popSs => popSs
  | .popDs => popDs
  | .jmpRel8 d => jmpRel8 d
  | .jmpRel16 d => jmpRel16 d
  | .jmpFar off sel => jmpFar off sel
  | .callRel16 d => callRel16 d
  | .callFar off sel => callFar off sel
  | .ret => ret
  | .retImm16 iw => retImm16 iw
  | .retf => retf
  | .retfImm16 iw => retfImm16 iw
  | .movsb => movsb
  | .cmpsb => cmpsb
  | .lodsb => lodsb
  | .intImm8 n => intImm8 n
  | .clc => clc
  | .stc => stc
  | .cmc => cmc
  | .cli => cli
  | .sti => sti
  | .cld => cld
  | .std => std
  | .esOverride => esOverride
  | .csOverride => csOverride
  | .ssOverride => ssOverride
  | .dsOverride => dsOverride
  | .fsOverride => fsOverride
  | .gsOverride => gsOverride
  | .repPrefix => repPrefix

/-- Every two-operand instruction is `aluInstr` (41_alu.md R256). -/
@[simp] theorem exec_alu (op : AluOp) (f : AluForm) (s : State) : exec (.alu op f) s = .next (aluInstr op f s) := by
  cases op <;> cases f <;> rfl

/-- Every conditional jump is `jccInstr` (45_control.md R394). -/
@[simp] theorem exec_jcc (c : Cond) (d : Byte) (s : State) : exec (.jcc c d) s = .next (jccInstr c d s) := by
  cases c <;> rfl

@[simp] theorem isPrefix_alu (op : AluOp) (f : AluForm) : (Instr.alu op f).isPrefix = false := by
  cases op <;> cases f <;> rfl

@[simp] theorem isPrefix_jcc (c : Cond) (d : Byte) : (Instr.jcc c d).isPrefix = false := by
  cases c <;> rfl

/-- A prefix byte is one of seven (30_encoding.md R130). -/
theorem Instr.prefix_cases {i : Instr} (h : i.isPrefix = true) :
    (∃ r, overrideOf i = some r ∧ i ≠ .repPrefix ∧ ∀ s, exec i s = .next (s.overrideSeg r)) ∨
    (i = .repPrefix ∧ ∀ s, exec i s = .next s.setRep) := by
  cases i <;> first
    | cases (show false = true from h)
    | exact .inl ⟨_, rfl, by simp, fun _ => rfl⟩
    | exact .inr ⟨rfl, fun _ => rfl⟩

/-! ### What a meaning can write -/

/-- The flags an instruction may write (10_state.md R49). -/
def mayWriteFlag (i : Instr) (x : Flag) : Prop :=
  x ∈ statusBits ∨ (x = .IF ∧ (i = .cli ∨ i = .sti)) ∨ (x = .DF ∧ (i = .cld ∨ i = .std))

/-- The instructions that may signal an interrupt (42_muldiv.md R302, 47_system.md R460). -/
def maySignal (i : Instr) : Prop := (∃ n, i = .intImm8 n) ∨ ∃ e, i = .divRm16 e

/-- `t` comes from `s` by writes the instruction `i` may do, in any order. -/
inductive Moves (i : Instr) (s : State) : State → Prop
  | refl : Moves i s s
  | set8 {t} (c : Reg8) (v : Byte) : Moves i s t → Moves i s (t.set8 c v)
  | set16 {t} (c : Reg16) (v : Word) : Moves i s t → Moves i s (t.set16 c v)
  | setIp {t} (v : Word) : Moves i s t → Moves i s (t.setIp v)
  | flag {t} (x : Flag) (b : Bool) : mayWriteFlag i x → Moves i s t → Moves i s (t.setFlag x b)
  | bus {t} (op : BusOp) : Moves i s t → Moves i s { t with bus := t.bus.after op }
  | seg {t} (r : SegReg) (v : Word) : (i.wellFormed = true → mayWriteSegment i r) → Moves i s t → Moves i s (t.loadSeg r v)
  | ads {t} (r : SegReg) : Moves i s t → Moves i s { t with ads := r }
  | override {t} (r : SegReg) : i.isPrefix = true → Moves i s t → Moves i s (t.overrideSeg r)
  | rep {t} : i.isPrefix = true → Moves i s t → Moves i s t.setRep
  | interrupt {t} (n : Byte) : maySignal i → Moves i s t → Moves i s (signalInterrupt n t)

variable {i : Instr} {s t : State}

theorem Moves.status (fl : StatusFlags) (h : Moves i s t) : Moves i s (t.setStatus fl) := by
  have hx : ∀ x ∈ statusBits, mayWriteFlag i x := fun x hx => .inl hx
  rw [State.setStatus]
  refine .flag _ _ (hx _ ?_) (.flag _ _ (hx _ ?_) (.flag _ _ (hx _ ?_) (.flag _ _ (hx _ ?_)
    (.flag _ _ (hx _ ?_) (.flag _ _ (hx _ ?_) h))))) <;> decide

theorem Moves.useMem (m : MemForm) (h : Moves i s t) : Moves i s (t.useMem m) := .ads _ h

theorem Moves.useRM {R : Type} (e : RM R) (h : Moves i s t) : Moves i s (t.useRM e) := by
  cases e
  · exact h
  · exact h.useMem _

theorem Moves.saw8 (l : Loc Reg8) (h : Moves i s t) : Moves i s (t.saw8 l) := by
  cases l
  · exact h
  · exact .bus _ h

theorem Moves.saw16 (l : Loc Reg16) (h : Moves i s t) : Moves i s (t.saw16 l) := by
  cases l
  · exact h
  · exact .bus _ h

theorem Moves.write8 (l : Loc Reg8) (v : Byte) (h : Moves i s t) : Moves i s (t.write8 l v) := by
  cases l
  · exact .set8 _ _ h
  · exact .bus _ h

theorem Moves.write16 (l : Loc Reg16) (v : Word) (h : Moves i s t) : Moves i s (t.write16 l v) := by
  cases l
  · exact .set16 _ _ h
  · exact .bus _ h

theorem Moves.push16 (v : Word) (h : Moves i s t) : Moves i s (t.push16 v) := .bus (.writeWord _ v) (.set16 _ _ h)

theorem Moves.pop16 (h : Moves i s t) : Moves i s t.pop16 := .set16 _ _ (.bus (.readWord _) h)

theorem Moves.alu8 (op : AluOp) (l : Loc Reg8) (b : Byte) (h : Moves i s t) : Moves i s (alu8 op l b t) := by
  rw [Machine.alu8]
  split
  · exact ((h.saw8 _).write8 _ _).status _
  · exact (h.saw8 _).status _

theorem Moves.alu16 (op : AluOp) (l : Loc Reg16) (b : Word) (h : Moves i s t) : Moves i s (alu16 op l b t) := by
  rw [Machine.alu16]
  split
  · exact ((h.saw16 _).write16 _ _).status _
  · exact (h.saw16 _).status _

/-- Repeating a unit that only writes what it may does the same. -/
theorem Moves.repeatUnits {unit : State → State} (hu : ∀ t, Moves i s t → Moves i s (unit t)) (n : Nat)
    (h : Moves i s t) : Moves i s (repeatUnits unit n t) := by
  induction n generalizing t with
  | zero => exact h
  | succ n ih =>
    rw [Machine.repeatUnits]
    split
    · exact h
    · exact ih (.set16 _ _ (hu _ h))

theorem Moves.stringExec {unit : State → State} (hu : ∀ t, Moves i s t → Moves i s (unit t)) (h : Moves i s t) :
    Moves i s (stringExec unit t) := by
  rw [Machine.stringExec]
  split
  · exact h.repeatUnits hu _
  · exact hu _ h

theorem Moves.retNear (v : Word) (h : Moves i s t) : Moves i s (retNear v t) := .set16 _ _ (.setIp _ h.pop16)

theorem Moves.retFar (v : Word) (hs : i.wellFormed = true → mayWriteSegment i .cs) (h : Moves i s t) : Moves i s (retFar v t) :=
  .set16 _ _ (.seg _ _ hs (.pop16 (.setIp _ h.pop16)))

/-- Whatever an instruction's meaning answers as a next state, it got there by writes it may do. -/
theorem exec_moves {i : Instr} {s t : State} (h : exec i s = .next t) : Moves i s t := by
  have r : Moves i s s := .refl
  revert h r
  induction i using Instr.byFamily with
  | alu op f =>
    intro h r
    rw [exec_alu] at h
    cases h
    cases f
    · exact (r.useRM _).alu8 _ _ _
    · exact (r.useRM _).alu16 _ _ _
    · exact ((r.useRM _).saw8 _).alu8 _ _ _
    · exact ((r.useRM _).saw16 _).alu16 _ _ _
    · exact r.alu8 _ _ _
    · exact r.alu16 _ _ _
    · exact (r.useRM _).alu8 _ _ _
    · exact (r.useRM _).alu16 _ _ _
    · exact (r.useRM _).alu16 _ _ _
  | jcc c d =>
    intro h r
    rw [exec_jcc] at h
    cases h
    rw [jccInstr]
    split
    · exact .setIp _ r
    · exact r
  | mulRm8 e =>
    intro h r
    cases h
    exact .flag _ _ (.inl (by decide)) (.flag _ _ (.inl (by decide)) (.set16 _ _ ((r.useRM e).saw8 _)))
  | mulRm16 e =>
    intro h r
    cases h
    exact .flag _ _ (.inl (by decide)) (.flag _ _ (.inl (by decide)) (.set16 _ _ (.set16 _ _ ((r.useRM e).saw16 _))))
  | divRm16 e =>
    intro h r
    cases h
    rw [divWord]
    split
    · exact .interrupt _ (.inr ⟨_, rfl⟩) ((r.useRM e).saw16 _)
    · exact .set16 _ _ (.set16 _ _ ((r.useRM e).saw16 _))
  | movRm8R8 e g => intro h r; cases h; exact (r.useRM e).write8 _ _
  | movRm16R16 e g => intro h r; cases h; exact (r.useRM e).write16 _ _
  | movR8Rm8 g e => intro h r; cases h; exact .set8 _ _ ((r.useRM e).saw8 _)
  | movR16Rm16 g e => intro h r; cases h; exact .set16 _ _ ((r.useRM e).saw16 _)
  | movRm16Sreg e sr => intro h r; cases h; exact (r.useRM e).write16 _ _
  | movSregRm16 sr e =>
    intro h r
    cases h
    refine .seg _ _ (fun hw => ⟨rfl, fun he => ?_⟩) ((r.useRM e).saw16 _)
    subst he
    cases (show false = true from hw)
  | leaR16M g m => intro h r; cases h; exact .set16 _ _ (r.useMem m)
  | movAlMoffs8 off => intro h r; cases h; exact .set8 _ _ (.bus (.readByte _) r)
  | movAxMoffs16 off => intro h r; cases h; exact .set16 _ _ (.bus (.readWord _) r)
  | movMoffs8Al off => intro h r; cases h; exact .bus (.writeByte _ _) r
  | movMoffs16Ax off => intro h r; cases h; exact .bus (.writeWord _ _) r
  | movR8Imm8 g ib => intro h r; cases h; exact .set8 _ _ r
  | movR16Imm16 g iw => intro h r; cases h; exact .set16 _ _ r
  | movRm8Imm8 e ib => intro h r; cases h; exact (r.useRM e).write8 _ _
  | movRm16Imm16 e iw => intro h r; cases h; exact (r.useRM e).write16 _ _
  | nop => intro h r; cases h; exact r
  | pushR16 g => intro h r; cases h; exact r.push16 _
  | popR16 g => intro h r; cases h; exact .set16 _ _ r.pop16
  | pushEs => intro h r; cases h; exact r.push16 _
  | pushCs => intro h r; cases h; exact r.push16 _
  | pushSs => intro h r; cases h; exact r.push16 _
  | pushDs => intro h r; cases h; exact r.push16 _
  | popEs => intro h r; cases h; exact .seg _ _ (fun _ => rfl) r.pop16
  | popSs => intro h r; cases h; exact .seg _ _ (fun _ => rfl) r.pop16
  | popDs => intro h r; cases h; exact .seg _ _ (fun _ => rfl) r.pop16
  | jmpRel8 d => intro h r; cases h; exact .setIp _ r
  | jmpRel16 d => intro h r; cases h; exact .setIp _ r
  | jmpFar off sel => intro h r; cases h; exact .setIp _ (.seg _ _ (fun _ => rfl) r)
  | callRel16 d => intro h r; cases h; exact .setIp _ (r.push16 _)
  | callFar off sel => intro h r; cases h; exact .setIp _ (.seg _ _ (fun _ => rfl) ((r.push16 _).push16 _))
  | ret => intro h r; cases h; exact r.retNear _
  | retImm16 iw => intro h r; cases h; exact r.retNear _
  | retf => intro h r; cases h; exact r.retFar _ fun _ => rfl
  | retfImm16 iw => intro h r; cases h; exact r.retFar _ fun _ => rfl
  | movsb =>
    intro h r
    cases h
    exact r.stringExec fun t h => .set16 _ _ (.set16 _ _ (.bus (.writeByte _ _) (.bus (.readByte _) h)))
  | cmpsb =>
    intro h r
    cases h
    exact r.stringExec fun t h => .set16 _ _ (.set16 _ _ (.status _ (.bus (.readByte _) (.bus (.readByte _) h))))
  | lodsb =>
    intro h r
    cases h
    exact r.stringExec fun t h => .set16 _ _ (.set8 _ _ (.bus (.readByte _) h))
  | intImm8 n => intro h r; cases h; exact .interrupt _ (.inl ⟨_, rfl⟩) r
  | clc => intro h r; cases h; exact .flag _ _ (.inl (by decide)) r
  | stc => intro h r; cases h; exact .flag _ _ (.inl (by decide)) r
  | cmc => intro h r; cases h; exact .flag _ _ (.inl (by decide)) r
  | cli => intro h r; cases h; exact .flag _ _ (.inr (.inl ⟨rfl, .inl rfl⟩)) r
  | sti => intro h r; cases h; exact .flag _ _ (.inr (.inl ⟨rfl, .inr rfl⟩)) r
  | cld => intro h r; cases h; exact .flag _ _ (.inr (.inr ⟨rfl, .inl rfl⟩)) r
  | std => intro h r; cases h; exact .flag _ _ (.inr (.inr ⟨rfl, .inr rfl⟩)) r
  | esOverride => intro h r; cases h; exact .override _ rfl r
  | csOverride => intro h r; cases h; exact .override _ rfl r
  | ssOverride => intro h r; cases h; exact .override _ rfl r
  | dsOverride => intro h r; cases h; exact .override _ rfl r
  | fsOverride => intro h r; cases h; exact .override _ rfl r
  | gsOverride => intro h r; cases h; exact .override _ rfl r
  | repPrefix => intro h r; cases h; exact .rep rfl r

end Sys2Proof.Machine
end

