-- ==== Sys2Proof/Laws/Decode.lean ====
section
/-! SUPPORT. The decoder over any source of bytes: register, base and operation codes round trip (30_encoding.md R124,
R126, R128), the fields of the ModRM byte (R121), and what decoding answers when the next fields to be fetched are those
of one format (R122). -/

namespace Sys2Proof

open Sys2Proof.Machine

/-! ### Codes -/

@[simp] theorem Reg8.ofCode_code (r : Reg8) : Reg8.ofCode r.code = r := by cases r <;> rfl
@[simp] theorem Reg16.ofCode_code (r : Reg16) : Reg16.ofCode r.code = r := by cases r <;> rfl
@[simp] theorem SegReg.ofCode_code (r : SegReg) : SegReg.ofCode r.code = some r := by cases r <;> rfl
@[simp] theorem Base.ofCode_code (b : Base) : Base.ofCode b.code = b := by cases b <;> rfl
@[simp] theorem AluOp.ofCode_code (op : AluOp) : AluOp.ofCode op.code = op := by cases op <;> rfl

theorem Reg8.code_ofCode (c : BitVec 3) : (Reg8.ofCode c).code = c := by revert c; decide
theorem Reg16.code_ofCode (c : BitVec 3) : (Reg16.ofCode c).code = c := by revert c; decide
theorem Base.code_ofCode (c : BitVec 3) : (Base.ofCode c).code = c := by revert c; decide
theorem AluOp.code_ofCode (c : BitVec 3) : (AluOp.ofCode c).code = c := by revert c; decide

theorem SegReg.code_of_ofCode {c : BitVec 3} {r : SegReg} (h : SegReg.ofCode c = some r) : r.code = c := by
  revert c r; decide

theorem SegReg.ofLoadCode_code {r : SegReg} (h : r ≠ .cs) : SegReg.ofLoadCode r.code = some r := by
  cases r <;> first | exact absurd rfl h | rfl

theorem SegReg.code_of_ofLoadCode {c : BitVec 3} {r : SegReg} (h : SegReg.ofLoadCode c = some r) :
    r.code = c ∧ r ≠ .cs := by
  revert c r; decide

theorem Base.code_eq_six {b : Base} : b.code = 6 ↔ b = .bp := by cases b <;> decide

/-! ### ModRM -/

@[simp] theorem modField_mk (m : BitVec 2) (g r : BitVec 3) : modField (mkModRM m g r) = m := by
  revert m g r; decide

@[simp] theorem regField_mk (m : BitVec 2) (g r : BitVec 3) : regField (mkModRM m g r) = g := by
  revert m g r; decide

@[simp] theorem rmField_mk (m : BitVec 2) (g r : BitVec 3) : rmField (mkModRM m g r) = r := by
  revert m g r; decide

/-- The three fields are the whole ModRM byte. -/
theorem mkModRM_fields (m : Byte) : mkModRM (modField m) (regField m) (rmField m) = m := by
  revert m; decide

@[simp] theorem RM.map_map {A B C : Type} (f : A → B) (g : B → C) (e : RM A) :
    (e.map f).map g = e.map fun a => g (f a) := by cases e <;> rfl

@[simp] theorem RM.map_id {A : Type} (e : RM A) : (e.map fun a => a) = e := by cases e <;> rfl

@[simp] theorem RM.wellFormed_map {A B : Type} (f : A → B) (e : RM A) : (e.map f).wellFormed = e.wellFormed := by
  cases e <;> rfl

/-! ### Reading the fields of an encoding -/

/-- From position `p` on the source holds these fields, and `q` is the position after them. -/
def Reads {σ : Type} (F : Fetcher σ) : σ → List Field → σ → Prop
  | p, [], q => p = q
  | p, .byte b :: fs, q => ∃ p1, F.next8 p = some (b, p1) ∧ Reads F p1 fs q
  | p, .word w :: fs, q => ∃ p1, F.next16 p = some (loByte w, hiByte w, p1) ∧ Reads F p1 fs q

variable {σ : Type} {F : Fetcher σ} {p q : σ} {seen : List Byte}

/-- Fields in a row are read in a row. -/
theorem reads_append {fs gs : List Field} : Reads F p (fs ++ gs) q ↔ ∃ r, Reads F p fs r ∧ Reads F r gs q := by
  induction fs generalizing p with
  | nil => simp [Reads]
  | cons f fs ih =>
    cases f <;> simp only [List.cons_append, Reads, ih]
    all_goals
      constructor
      · rintro ⟨p1, h, r, hr, hq⟩
        exact ⟨r, ⟨p1, h, hr⟩, hq⟩
      · rintro ⟨r, ⟨p1, h, hr⟩, hq⟩
        exact ⟨p1, h, r, hr, hq⟩

/-- The bytes of fields. -/
abbrev fieldBytes (fs : List Field) : List Byte := fs.flatMap Field.bytes

/-- A list of bytes that begins with the bytes of fields holds these fields. -/
theorem reads_list (fs : List Field) (rest : List Byte) : Reads listFetcher (fieldBytes fs ++ rest) fs rest := by
  induction fs with
  | nil => rfl
  | cons f fs ih => cases f <;> exact ⟨_, rfl, ih⟩

theorem fetch8_of_next {p1 : σ} {b : Byte} (h : F.next8 p = some (b, p1)) (k : Byte → Cursor σ → Decoded σ) :
    fetch8 F ⟨p, seen⟩ k = k b ⟨p1, seen ++ [b]⟩ := by
  simp [fetch8, h]

theorem fetch16_of_next {p1 : σ} {w : Word} (h : F.next16 p = some (loByte w, hiByte w, p1))
    (k : Word → Cursor σ → Decoded σ) :
    fetch16 F ⟨p, seen⟩ k = k w ⟨p1, seen ++ [loByte w, hiByte w]⟩ := by
  simp [fetch16, h]

/-- Decoding the operand of a ModRM byte reads back the form it was made from (30_encoding.md R127, R128). -/
theorem decodeMem_fields {m : MemForm} {g : BitVec 3} {md : Byte} {p1 : σ} {fs : List Field}
    (hw : m.wellFormed = true) (hm : fieldsMem g m = .byte md :: fs) (h : Reads F p1 fs q)
    (k : MemForm → Cursor σ → Decoded σ) :
    decodeMem F md ⟨p1, seen⟩ k = k m ⟨q, seen ++ fieldBytes fs⟩ := by
  cases m with
  | noDisp b =>
    obtain ⟨rfl, rfl⟩ : md = mkModRM 0 g b.code ∧ fs = [] := by
      simpa [fieldsMem, eq_comm] using hm
    have hb : b.code ≠ 6 := fun h6 => by
      rw [Base.code_eq_six.mp h6] at hw
      exact absurd hw (by decide)
    obtain rfl : p1 = q := h
    rw [decodeMem, if_pos (by simp), if_neg (by simpa using hb)]
    simp
  | direct off =>
    obtain ⟨rfl, rfl⟩ : md = mkModRM 0 g 6 ∧ fs = [.word off] := by
      simpa [fieldsMem, eq_comm] using hm
    obtain ⟨p2, h2, rfl⟩ := h
    simp [decodeMem, fetch16_of_next h2, Field.bytes]
  | disp8 b d =>
    obtain ⟨rfl, rfl⟩ : md = mkModRM 1 g b.code ∧ fs = [.byte d] := by
      simpa [fieldsMem, eq_comm] using hm
    obtain ⟨p2, h2, rfl⟩ := h
    simp [decodeMem, fetch8_of_next h2, Field.bytes]
  | disp16 b d =>
    obtain ⟨rfl, rfl⟩ : md = mkModRM 2 g b.code ∧ fs = [.word d] := by
      simpa [fieldsMem, eq_comm] using hm
    obtain ⟨p2, h2, rfl⟩ := h
    simp [decodeMem, fetch16_of_next h2, Field.bytes]

/-- The first field of a memory operand is its ModRM byte, with mod not 3 and the reg field given. -/
theorem fieldsMem_eq (g : BitVec 3) (m : MemForm) : ∃ md fs, fieldsMem g m = .byte md :: fs ∧
    modField md ≠ 3 ∧ regField md = g := by
  cases m
  all_goals exact ⟨_, _, rfl, by simp, by simp⟩

/-- The first field of a ModRM operand is its ModRM byte, with the reg field given; decoding reads the operand back. -/
theorem decodeRM_fields {op : Byte} {g : BitVec 3} {e : RM (BitVec 3)} (hw : e.wellFormed = true)
    {rest : List Field} (h : Reads F p (fieldsRM op g e ++ rest) q) :
    ∃ p1 md p2 p3, F.next8 p = some (op, p1) ∧ F.next8 p1 = some (md, p2) ∧ regField md = g ∧
      Reads F p3 rest q ∧
      ∀ seen k, decodeRM F md ⟨p2, seen ++ [op] ++ [md]⟩ k = k e ⟨p3, seen ++ fieldBytes (fieldsRM op g e)⟩ := by
  rw [reads_append] at h
  obtain ⟨p3, h, hrest⟩ := h
  cases e with
  | reg r =>
    obtain ⟨p1, h1, p2, h2, rfl⟩ := h
    exact ⟨p1, _, p2, p2, h1, h2, by simp, hrest, fun seen k => by
      simp [decodeRM, fieldsRM, Field.bytes]⟩
  | mem m =>
    obtain ⟨md, fs, hm, hmod, hreg⟩ := fieldsMem_eq g m
    simp only [fieldsRM, hm] at h
    obtain ⟨p1, h1, p2, h2, h3⟩ := h
    exact ⟨p1, md, p2, p3, h1, h2, hreg, hrest, fun seen k => by
      rw [decodeRM, if_neg hmod]
      simp [decodeMem_fields hw hm h3, fieldsRM, hm, Field.bytes]⟩

/-! ### Decoding each format of R122 -/

theorem decodeFrom_plain {op : Byte} {i : Instr} (hop : opcodeMap op = some (.plain i))
    (h : Reads F p [.byte op] q) : decodeFrom F ⟨p, seen⟩ = .ok i ⟨q, seen ++ [op]⟩ := by
  obtain ⟨p1, h1, rfl⟩ := h
  simp [decodeFrom, fetch8_of_next h1, hop, decodeEntry]

theorem decodeFrom_imm8 {op b : Byte} {mk : Byte → Instr} (hop : opcodeMap op = some (.imm8 mk))
    (h : Reads F p [.byte op, .byte b] q) : decodeFrom F ⟨p, seen⟩ = .ok (mk b) ⟨q, seen ++ [op, b]⟩ := by
  obtain ⟨p1, h1, p2, h2, rfl⟩ := h
  simp [decodeFrom, fetch8_of_next h1, hop, decodeEntry, fetch8_of_next h2]

theorem decodeFrom_imm16 {op : Byte} {w : Word} {mk : Word → Instr} (hop : opcodeMap op = some (.imm16 mk))
    (h : Reads F p [.byte op, .word w] q) :
    decodeFrom F ⟨p, seen⟩ = .ok (mk w) ⟨q, seen ++ [op, loByte w, hiByte w]⟩ := by
  obtain ⟨p1, h1, p2, h2, rfl⟩ := h
  simp [decodeFrom, fetch8_of_next h1, hop, decodeEntry, fetch16_of_next h2]

theorem decodeFrom_far {op : Byte} {v w : Word} {mk : Word → Word → Instr} (hop : opcodeMap op = some (.far mk))
    (h : Reads F p [.byte op, .word v, .word w] q) :
    decodeFrom F ⟨p, seen⟩ = .ok (mk v w) ⟨q, seen ++ [op, loByte v, hiByte v, loByte w, hiByte w]⟩ := by
  obtain ⟨p1, h1, p2, h2, p3, h3, rfl⟩ := h
  simp [decodeFrom, fetch8_of_next h1, hop, decodeEntry, fetch16_of_next h2, fetch16_of_next h3]

theorem decodeFrom_modrm {op : Byte} {g : BitVec 3} {e : RM (BitVec 3)} {i : Instr}
    {pick : BitVec 3 → Option (RM (BitVec 3) → Instr)} {mk : RM (BitVec 3) → Instr}
    (h : Reads F p (fieldsRM op g e) q) (hop : opcodeMap op = some (.modrm pick)) (hg : pick g = some mk)
    (hw : e.wellFormed = true) (hi : mk e = i) :
    decodeFrom F ⟨p, seen⟩ = .ok i ⟨q, seen ++ fieldBytes (fieldsRM op g e)⟩ := by
  obtain ⟨p1, md, p2, p3, h1, h2, rfl, rfl, hk⟩ := decodeRM_fields hw (rest := []) (by simpa using h)
  simp only [decodeFrom, fetch8_of_next h1, hop, decodeEntry, fetch8_of_next h2, hg, hk, hi]

theorem decodeFrom_modrmImm8 {op b : Byte} {g : BitVec 3} {e : RM (BitVec 3)} {i : Instr}
    {pick : BitVec 3 → Option (RM (BitVec 3) → Byte → Instr)} {mk : RM (BitVec 3) → Byte → Instr}
    (h : Reads F p (fieldsRM op g e ++ [.byte b]) q) (hop : opcodeMap op = some (.modrmImm8 pick))
    (hg : pick g = some mk) (hw : e.wellFormed = true) (hi : mk e b = i) :
    decodeFrom F ⟨p, seen⟩ = .ok i ⟨q, seen ++ fieldBytes (fieldsRM op g e ++ [.byte b])⟩ := by
  obtain ⟨p1, md, p2, p3, h1, h2, rfl, ⟨p4, h4, rfl⟩, hk⟩ := decodeRM_fields hw h
  simp only [decodeFrom, fetch8_of_next h1, hop, decodeEntry, fetch8_of_next h2, hg, hk, fetch8_of_next h4, hi]
  simp [Field.bytes]

theorem decodeFrom_modrmImm16 {op : Byte} {w : Word} {g : BitVec 3} {e : RM (BitVec 3)} {i : Instr}
    {pick : BitVec 3 → Option (RM (BitVec 3) → Word → Instr)} {mk : RM (BitVec 3) → Word → Instr}
    (h : Reads F p (fieldsRM op g e ++ [.word w]) q) (hop : opcodeMap op = some (.modrmImm16 pick))
    (hg : pick g = some mk) (hw : e.wellFormed = true) (hi : mk e w = i) :
    decodeFrom F ⟨p, seen⟩ = .ok i ⟨q, seen ++ fieldBytes (fieldsRM op g e ++ [.word w])⟩ := by
  obtain ⟨p1, md, p2, p3, h1, h2, rfl, ⟨p4, h4, rfl⟩, hk⟩ := decodeRM_fields hw h
  simp only [decodeFrom, fetch8_of_next h1, hop, decodeEntry, fetch8_of_next h2, hg, hk, fetch16_of_next h4, hi]
  simp [Field.bytes]

theorem decodeFrom_modrmMem {op : Byte} {g : BitVec 3} {m : MemForm} {mk : BitVec 3 → MemForm → Instr}
    (hop : opcodeMap op = some (.modrmMem mk)) (hw : m.wellFormed = true)
    (h : Reads F p (.byte op :: fieldsMem g m) q) :
    decodeFrom F ⟨p, seen⟩ = .ok (mk g m) ⟨q, seen ++ fieldBytes (.byte op :: fieldsMem g m)⟩ := by
  obtain ⟨md, fs, hm, hmod, rfl⟩ := fieldsMem_eq g m
  rw [hm] at h ⊢
  obtain ⟨p1, h1, p2, h2, h3⟩ := h
  simp only [decodeFrom, fetch8_of_next h1, hop, decodeEntry, fetch8_of_next h2]
  rw [if_neg hmod]
  simp [decodeMem_fields hw hm h3, Field.bytes]

/-! ### What holds of a place in the byte stream, whatever is decoded from it -/

/-- Where decoding stopped reading. -/
@[simp] def Decoded.cursor : Decoded σ → Cursor σ
  | .ok _ c => c
  | .bad _ c => c

/-- Reading a byte or a word keeps `P` of the place. -/
structure KeptBy (F : Fetcher σ) (P : σ → Prop) : Prop where
  next8 : ∀ p b q, F.next8 p = some (b, q) → P p → P q
  next16 : ∀ p lo hi q, F.next16 p = some (lo, hi, q) → P p → P q

variable {P : σ → Prop} {c : Cursor σ}

theorem fetch8_keeps (hF : KeptBy F P) {k : Byte → Cursor σ → Decoded σ} (h : P c.pos)
    (hk : ∀ b c1, P c1.pos → P (k b c1).cursor.pos) : P (fetch8 F c k).cursor.pos := by
  rw [fetch8]
  split
  · exact h
  · exact hk _ _ (hF.next8 _ _ _ (by assumption) h)

theorem fetch16_keeps (hF : KeptBy F P) {k : Word → Cursor σ → Decoded σ} (h : P c.pos)
    (hk : ∀ w c1, P c1.pos → P (k w c1).cursor.pos) : P (fetch16 F c k).cursor.pos := by
  rw [fetch16]
  split
  · exact h
  · exact hk _ _ (hF.next16 _ _ _ _ (by assumption) h)

theorem decodeMem_keeps (hF : KeptBy F P) {m : Byte} {k : MemForm → Cursor σ → Decoded σ} (h : P c.pos)
    (hk : ∀ mf c1, P c1.pos → P (k mf c1).cursor.pos) : P (decodeMem F m c k).cursor.pos := by
  rw [decodeMem]
  split
  · split
    · exact fetch16_keeps hF h fun _ _ h => hk _ _ h
    · exact hk _ _ h
  · split
    · exact fetch8_keeps hF h fun _ _ h => hk _ _ h
    · exact fetch16_keeps hF h fun _ _ h => hk _ _ h

theorem decodeRM_keeps (hF : KeptBy F P) {m : Byte} {k : RM (BitVec 3) → Cursor σ → Decoded σ} (h : P c.pos)
    (hk : ∀ e c1, P c1.pos → P (k e c1).cursor.pos) : P (decodeRM F m c k).cursor.pos := by
  rw [decodeRM]
  split
  · exact hk _ _ h
  · exact decodeMem_keeps hF h fun _ _ h => hk _ _ h

theorem decodeEntry_keeps (hF : KeptBy F P) (op : Byte) (e : OpEntry) (h : P c.pos) :
    P (decodeEntry F op c e).cursor.pos := by
  cases e
  all_goals simp only [decodeEntry]
  case plain x => exact h
  case imm8 x => exact fetch8_keeps hF h fun _ _ h => h
  case imm16 x => exact fetch16_keeps hF h fun _ _ h => h
  case far x => exact fetch16_keeps hF h fun _ _ h => fetch16_keeps hF h fun _ _ h => h
  case modrm x =>
    refine fetch8_keeps hF h fun m _ h => ?_
    cases x (regField m)
    · exact h
    · exact decodeRM_keeps hF h fun _ _ h => h
  case modrmMem x =>
    refine fetch8_keeps hF h fun m _ h => ?_
    split
    · exact h
    · exact decodeMem_keeps hF h fun _ _ h => h
  case modrmImm8 x =>
    refine fetch8_keeps hF h fun m _ h => ?_
    cases x (regField m)
    · exact h
    · exact decodeRM_keeps hF h fun _ _ h => fetch8_keeps hF h fun _ _ h => h
  case modrmImm16 x =>
    refine fetch8_keeps hF h fun m _ h => ?_
    cases x (regField m)
    · exact h
    · exact decodeRM_keeps hF h fun _ _ h => fetch16_keeps hF h fun _ _ h => h

/-- Whatever reading keeps, decoding an instruction keeps. -/
theorem decodeFrom_keeps (hF : KeptBy F P) (h : P c.pos) : P (decodeFrom F c).cursor.pos := by
  rw [decodeFrom]
  refine fetch8_keeps hF h fun op _ h => ?_
  cases opcodeMap op
  · exact h
  · exact decodeEntry_keeps hF op _ h

end Sys2Proof
end

