-- ==== Sys2Proof/Laws/Ops.lean ====
section
/-! SUPPORT. One lemma per shared operation, saying what it answers: segment bases and linear addresses, flag writes,
operands, the stack, the interrupt dispatcher, the canonical memory after each. -/

namespace Sys2Proof.Machine

/-! ### Segments and addresses (10_state.md R41, 20_memory.md R85) -/

/-- The base of a loaded segment register is the selector times 16. -/
theorem toNat_base (v : Word) : (v.setWidth 32 <<< 4 : Addr).toNat = v.toNat * 16 := by
  have := v.isLt
  rw [BitVec.toNat_shiftLeft, BitVec.toNat_setWidth, Nat.shiftLeft_eq]
  omega

/-- A linear address under a coherent base cache: no carry out of 32 bits. -/
theorem toNat_segAddr {s : State} (h : s.segs.coherent) (r : SegReg) (off : Word) :
    (s.segAddr r off).toNat = (s.segs.get r).sel.toNat * 16 + off.toNat := by
  have h1 := (s.segs.get r).sel.isLt
  have h2 := off.isLt
  rw [State.segAddr, h r, BitVec.toNat_add, toNat_base, BitVec.toNat_setWidth]
  omega

/-- A selector write keeps the base cache coherent. -/
theorem SegFile.coherent_set {f : SegFile} (r : SegReg) (v : Word) (h : f.coherent) :
    (f.set r (.load v)).coherent := by
  intro q
  rw [SegFile.get_set]
  split
  · rfl
  · exact h q

theorem SegFile.coherent_load (v : Selectors) : (SegFile.load v).coherent := by
  intro q
  cases q <;> rfl

/-- Linear addresses in one segment differ when their offsets do. -/
theorem segAddr_injective {s : State} {r : SegReg} {a b : Word} (h : s.segAddr r a = s.segAddr r b) : a = b := by
  have h1 : (a.setWidth 32 : Addr) = b.setWidth 32 := by
    simpa [State.segAddr] using h
  have h2 := congrArg BitVec.toNat h1
  rw [BitVec.toNat_setWidth, BitVec.toNat_setWidth] at h2
  have := a.isLt
  have := b.isLt
  exact BitVec.eq_of_toNat_eq (by omega)

/-! ### Flags (10_state.md R46) -/

/-- A flag write changes that bit and no other. -/
theorem getLsbD_setFlag (s : State) (x : Flag) (b : Bool) (n : Nat) :
    (s.setFlag x b).flags.getLsbD n = if n = x.bit then b else s.flags.getLsbD n := by
  rw [State.setFlag, getLsbD_setBit _ _ (Flag.bit_lt x)]

/-- Reading a flag after a flag write. -/
@[simp] theorem flag_setFlag (s : State) (x y : Flag) (b : Bool) :
    (s.setFlag x b).flag y = if y = x then b else s.flag y := by
  rw [State.flag, getLsbD_setFlag]
  by_cases h : y = x
  · simp [h]
  · rw [if_neg h, if_neg fun hb => h (Flag.bit_injective hb), State.flag]

/-- `setStatus` writes the six status flags as given (41_alu.md R256). -/
theorem statusIs_setStatus (s : State) (fl : StatusFlags) : statusIs fl (s.setStatus fl) := by
  constructor <;> simp [State.setStatus]

/-- `setStatus` writes nothing but the six status flags. -/
theorem getLsbD_setStatus (s : State) (fl : StatusFlags) {n : Nat} (h : ∀ x ∈ statusBits, x.bit ≠ n) :
    (s.setStatus fl).flags.getLsbD n = s.flags.getLsbD n := by
  have hx : ∀ x ∈ statusBits, n ≠ x.bit := fun x hx => (h x hx).symm
  simp only [State.setStatus, getLsbD_setFlag]
  rw [if_neg (hx _ (by decide)), if_neg (hx _ (by decide)), if_neg (hx _ (by decide)), if_neg (hx _ (by decide)),
    if_neg (hx _ (by decide)), if_neg (hx _ (by decide))]

/-! ### Operands (40_cycle.md R206, 30_encoding.md R129) -/

@[simp] theorem useRM_ads {R : Type} (s : State) (e : RM R) : (s.useRM e).ads = s.rmSeg e := by
  cases e <;> rfl

/-- Reading a decoded byte operand. -/
@[simp] theorem read8_loc (s : State) (e : RM Reg8) : (s.useRM e).read8 (s.loc e) = s.byteAt e := by
  cases e <;> rfl

/-- Reading a decoded word operand. -/
@[simp] theorem read16_loc (s : State) (e : RM Reg16) : (s.useRM e).read16 (s.loc e) = s.wordAt e := by
  cases e <;> rfl

/-- From the bus alone: what it did, and what it left. -/
theorem busDid_of_run {s t : State} {ops : List BusOp} (h : t.bus = s.bus.run ops) : busDid ops s t :=
  ⟨h, fun a ha hd => by rw [State.readByte, State.readByte, h, Bus.readByte_run_other hd ha]⟩

/-- Nothing on the bus: the bus is as before. -/
theorem busDid_nil {s t : State} (h : t.bus = s.bus) : busDid [] s t := busDid_of_run h

/-- The bus reads of reading a decoded byte operand. -/
@[simp] theorem saw8_loc_bus (s : State) (e : RM Reg8) :
    ((s.useRM e).saw8 (s.loc e)).bus = s.bus.run (s.reads8 e) := by cases e <;> rfl

/-- The bus reads of reading a decoded word operand. -/
@[simp] theorem saw16_loc_bus (s : State) (e : RM Reg16) :
    ((s.useRM e).saw16 (s.loc e)).bus = s.bus.run (s.reads16 e) := by cases e <;> rfl

/-- Writing a decoded byte operand, after the bus operations `before`, writes that register view or that byte. -/
theorem byteWritten_write8 {s u : State} {before : List BusOp} (e : RM Reg8) (v : Byte) (hr : u.regs = s.regs)
    (hs : u.segs = s.segs) (ha : u.ads = s.rmSeg e) (hb : u.bus = s.bus.run before) :
    byteWritten e v before s (u.write8 (s.loc e) v) := by
  cases e with
  | reg r => exact ⟨congrArg (fun x => RegFile.set8 x r v) hr, busDid_of_run hb⟩
  | mem m =>
    have hm : u.segAddr u.ads (m.offset s.regs) = s.memAddr m := by
      rw [State.segAddr_congr hs, ha]
      rfl
    have ht : (u.write8 (s.loc (.mem m)) v).bus = s.bus.run (before ++ [.writeByte (s.memAddr m) v]) := by
      rw [← hm, Bus.run_append, ← hb]
      rfl
    refine ⟨hr, busDid_of_run ht, fun hp => ?_⟩
    rw [State.readByte, ht, Bus.run_append]
    exact Bus.readByte_after_writeByte v (Bus.run_wf _ hp.wf) (by simpa using hp.noDevice _ (by simp))

/-- Writing a decoded word operand, after the bus operations `before`, writes that register view or those two bytes. -/
theorem wordWritten_write16 {s u : State} {before : List BusOp} (e : RM Reg16) (v : Word) (hr : u.regs = s.regs)
    (hs : u.segs = s.segs) (ha : u.ads = s.rmSeg e) (hb : u.bus = s.bus.run before) :
    wordWritten e v before s (u.write16 (s.loc e) v) := by
  cases e with
  | reg r => exact ⟨congrArg (fun x => RegFile.set16 x r v) hr, busDid_of_run hb⟩
  | mem m =>
    have hm : u.segAddr u.ads (m.offset s.regs) = s.memAddr m := by
      rw [State.segAddr_congr hs, ha]
      rfl
    have ht : (u.write16 (s.loc (.mem m)) v).bus = s.bus.run (before ++ [.writeWord (s.memAddr m) v]) := by
      rw [← hm, Bus.run_append, ← hb]
      rfl
    refine ⟨hr, busDid_of_run ht, fun hp => ?_⟩
    rw [State.readByte, State.readByte, ht, Bus.run_append]
    exact Bus.readByte_after_writeWord v (Bus.run_wf _ hp.wf) (by simpa using hp.noDevice _ (by simp))
      (by simpa using hp.noDevice _ (by simp))

theorem write8_sequencer (s : State) (l : Loc Reg8) (v : Byte) : sameSequencer s (s.write8 l v) := by
  constructor <;> simp

theorem write16_sequencer (s : State) (l : Loc Reg16) (v : Word) : sameSequencer s (s.write16 l v) := by
  constructor <;> simp

@[simp] theorem ip_setIp (s : State) (v : Word) : (s.setIp v).ip = v := by simp [State.ip]

@[simp] theorem ip_push16 (s : State) (v : Word) : (s.push16 v).ip = s.ip := by simp [State.ip]

@[simp] theorem ip_jumpRel (s : State) (d : Word) : (s.jumpRel d).ip = s.ip + d := ip_setIp s _

@[simp] theorem ip_jumpFar (s : State) (off sel : Word) : (s.jumpFar off sel).ip = off := ip_setIp _ _

/-! ### The stack (44_stack.md R360 to R362) -/

/-- On plain memory a push stores the word at the new SS:SP. -/
theorem readWord_push16 {s : State} (v : Word)
    (hp : s.plainAt [s.segAddr .ss (s.get16 .sp - 2), s.segAddr .ss (s.get16 .sp - 2) + 1]) :
    (s.push16 v).readWord (s.segAddr .ss (s.get16 .sp - 2)) = v :=
  Bus.readWord_after_writeWord v hp.wf (hp.noDevice _ (by simp)) (hp.noDevice _ (by simp))

@[simp] theorem get16_sp_push16 (s : State) (v : Word) : (s.push16 v).get16 .sp = s.get16 .sp - 2 := by
  simp [State.get16]

@[simp] theorem get16_sp_pop16 (s : State) : s.pop16.get16 .sp = s.get16 .sp + 2 := by
  simp [State.get16]

/-- The word a push stores is the word the next pop returns. -/
theorem stackTop_push16 {s : State} (v : Word)
    (hp : s.plainAt [s.segAddr .ss (s.get16 .sp - 2), s.segAddr .ss (s.get16 .sp - 2) + 1]) :
    (s.push16 v).stackTop = v := by
  rw [State.stackTop, get16_sp_push16]
  exact readWord_push16 v hp

/-! ### The interrupt dispatcher (60_exceptions.md R504 to R506) -/

/-- What `signalInterrupt` answers: every field is the handler's, or as it was. -/
theorem interruptTaken_signal (n : Byte) (s : State) : interruptTaken n s (signalInterrupt n s) :=
  ⟨rfl, rfl, rfl, rfl, rfl, rfl, rfl, rfl, rfl, rfl, rfl⟩

@[simp] theorem signalInterrupt_ads (n : Byte) (s : State) : (signalInterrupt n s).ads = s.ads := rfl

@[simp] theorem signalInterrupt_draws (n : Byte) (s : State) : (signalInterrupt n s).draws = s.draws + 1 := rfl

@[simp] theorem signalInterrupt_inh (n : Byte) (s : State) : (signalInterrupt n s).inh = false := rfl

theorem signalInterrupt_coherent (n : Byte) (s : State) : (signalInterrupt n s).segs.coherent :=
  SegFile.coherent_load _

theorem signalInterrupt_wf (n : Byte) {s : State} (h : Memory.wf s.bus.ram) :
    Memory.wf (signalInterrupt n s).bus.ram :=
  Bus.run_wf _ h

@[simp] theorem signalInterrupt_devices (n : Byte) (s : State) : (signalInterrupt n s).bus.devices = s.bus.devices :=
  Bus.run_devices _ _

theorem signalInterrupt_log (n : Byte) (s : State) : ∃ more, (signalInterrupt n s).bus.log = s.bus.log ++ more :=
  Bus.run_log _ _

/-! ### The state after reset -/

theorem reset_memory_wf : Memory.wf State.reset.bus.ram := ⟨List.Pairwise.nil, fun _ h => nomatch h⟩

theorem reset_coherent : State.reset.segs.coherent := by
  intro r
  cases r <;> rfl

end Sys2Proof.Machine
end

