-- ==== Sys2Proof/Laws/PerInstr.lean ====
section
/-! SUPPORT. Statements about every instruction as syntax, one lemma per constructor. -/

namespace Sys2Proof.Laws.EncodeLength

open Sys2Proof Sys2Proof.Machine

/-- An instruction without its prefixes takes 1 to 6 bytes, and a prefix byte takes one (30_encoding.md R123). -/
def Statement (i : Instr) : Prop :=
  1 ≤ (encode i).length ∧ (encode i).length ≤ 6 ∧ (i.isPrefix = true → (encode i).length = 1)

/-- The bytes of a memory operand: its ModRM byte and 0, 1 or 2 of displacement (30_encoding.md R128). -/
theorem length_fieldsMem (g : BitVec 3) (m : MemForm) :
    1 ≤ ((fieldsMem g m).flatMap Field.bytes).length ∧ ((fieldsMem g m).flatMap Field.bytes).length ≤ 3 := by
  cases m <;> exact ⟨Nat.le_of_ble_eq_true rfl, Nat.le_of_ble_eq_true rfl⟩

/-- The bytes of a ModRM operand with its opcode byte. -/
theorem length_fieldsRM (op : Byte) (g : BitVec 3) (e : RM (BitVec 3)) :
    2 ≤ ((fieldsRM op g e).flatMap Field.bytes).length ∧ ((fieldsRM op g e).flatMap Field.bytes).length ≤ 4 := by
  cases e with
  | reg r => exact ⟨Nat.le_of_ble_eq_true rfl, Nat.le_of_ble_eq_true rfl⟩
  | mem m => cases m <;> exact ⟨Nat.le_of_ble_eq_true rfl, Nat.le_of_ble_eq_true rfl⟩

/-- A ModRM format with at most two bytes of immediate. -/
theorem of_fieldsRM {i : Instr} {op : Byte} {g : BitVec 3} {e : RM (BitVec 3)} {imm : List Field}
    (h : encodeFields i = fieldsRM op g e ++ imm) (hi : (imm.flatMap Field.bytes).length ≤ 2)
    (hp : i.isPrefix = false) : Statement i := by
  have := length_fieldsRM op g e
  refine ⟨?_, ?_, fun h1 => ?_⟩
  · rw [encode, h, List.flatMap_append, List.length_append]
    omega
  · rw [encode, h, List.flatMap_append, List.length_append]
    omega
  · rw [hp] at h1
    cases h1

theorem addRm8R8 (e : RM Reg8) (g : Reg8) : Statement (.addRm8R8 e g) :=
  of_fieldsRM (imm := []) (List.append_nil _).symm (Nat.zero_le _) rfl

theorem addRm16R16 (e : RM Reg16) (g : Reg16) : Statement (.addRm16R16 e g) :=
  of_fieldsRM (imm := []) (List.append_nil _).symm (Nat.zero_le _) rfl

theorem addR8Rm8 (g : Reg8) (e : RM Reg8) : Statement (.addR8Rm8 g e) :=
  of_fieldsRM (imm := []) (List.append_nil _).symm (Nat.zero_le _) rfl

theorem addR16Rm16 (g : Reg16) (e : RM Reg16) : Statement (.addR16Rm16 g e) :=
  of_fieldsRM (imm := []) (List.append_nil _).symm (Nat.zero_le _) rfl

theorem addAlImm8 (ib : Byte) : Statement (.addAlImm8 ib) :=
  ⟨Nat.le_of_ble_eq_true rfl, Nat.le_of_ble_eq_true rfl, fun h => nomatch h⟩

theorem addAxImm16 (iw : Word) : Statement (.addAxImm16 iw) :=
  ⟨Nat.le_of_ble_eq_true rfl, Nat.le_of_ble_eq_true rfl, fun h => nomatch h⟩

theorem addRm8Imm8 (e : RM Reg8) (ib : Byte) : Statement (.addRm8Imm8 e ib) :=
  of_fieldsRM rfl (Nat.le_of_ble_eq_true rfl) rfl

theorem addRm16Imm16 (e : RM Reg16) (iw : Word) : Statement (.addRm16Imm16 e iw) :=
  of_fieldsRM rfl (Nat.le_of_ble_eq_true rfl) rfl

theorem addRm16Imm8 (e : RM Reg16) (ib : Byte) : Statement (.addRm16Imm8 e ib) :=
  of_fieldsRM rfl (Nat.le_of_ble_eq_true rfl) rfl

theorem orRm8R8 (e : RM Reg8) (g : Reg8) : Statement (.orRm8R8 e g) :=
  of_fieldsRM (imm := []) (List.append_nil _).symm (Nat.zero_le _) rfl

theorem orRm16R16 (e : RM Reg16) (g : Reg16) : Statement (.orRm16R16 e g) :=
  of_fieldsRM (imm := []) (List.append_nil _).symm (Nat.zero_le _) rfl

theorem orR8Rm8 (g : Reg8) (e : RM Reg8) : Statement (.orR8Rm8 g e) :=
  of_fieldsRM (imm := []) (List.append_nil _).symm (Nat.zero_le _) rfl

theorem orR16Rm16 (g : Reg16) (e : RM Reg16) : Statement (.orR16Rm16 g e) :=
  of_fieldsRM (imm := []) (List.append_nil _).symm (Nat.zero_le _) rfl

theorem orAlImm8 (ib : Byte) : Statement (.orAlImm8 ib) :=
  ⟨Nat.le_of_ble_eq_true rfl, Nat.le_of_ble_eq_true rfl, fun h => nomatch h⟩

theorem orAxImm16 (iw : Word) : Statement (.orAxImm16 iw) :=
  ⟨Nat.le_of_ble_eq_true rfl, Nat.le_of_ble_eq_true rfl, fun h => nomatch h⟩

theorem orRm8Imm8 (e : RM Reg8) (ib : Byte) : Statement (.orRm8Imm8 e ib) :=
  of_fieldsRM rfl (Nat.le_of_ble_eq_true rfl) rfl

theorem orRm16Imm16 (e : RM Reg16) (iw : Word) : Statement (.orRm16Imm16 e iw) :=
  of_fieldsRM rfl (Nat.le_of_ble_eq_true rfl) rfl

theorem orRm16Imm8 (e : RM Reg16) (ib : Byte) : Statement (.orRm16Imm8 e ib) :=
  of_fieldsRM rfl (Nat.le_of_ble_eq_true rfl) rfl

theorem adcRm8R8 (e : RM Reg8) (g : Reg8) : Statement (.adcRm8R8 e g) :=
  of_fieldsRM (imm := []) (List.append_nil _).symm (Nat.zero_le _) rfl

theorem adcRm16R16 (e : RM Reg16) (g : Reg16) : Statement (.adcRm16R16 e g) :=
  of_fieldsRM (imm := []) (List.append_nil _).symm (Nat.zero_le _) rfl

theorem adcR8Rm8 (g : Reg8) (e : RM Reg8) : Statement (.adcR8Rm8 g e) :=
  of_fieldsRM (imm := []) (List.append_nil _).symm (Nat.zero_le _) rfl

theorem adcR16Rm16 (g : Reg16) (e : RM Reg16) : Statement (.adcR16Rm16 g e) :=
  of_fieldsRM (imm := []) (List.append_nil _).symm (Nat.zero_le _) rfl

theorem adcAlImm8 (ib : Byte) : Statement (.adcAlImm8 ib) :=
  ⟨Nat.le_of_ble_eq_true rfl, Nat.le_of_ble_eq_true rfl, fun h => nomatch h⟩

theorem adcAxImm16 (iw : Word) : Statement (.adcAxImm16 iw) :=
  ⟨Nat.le_of_ble_eq_true rfl, Nat.le_of_ble_eq_true rfl, fun h => nomatch h⟩

theorem adcRm8Imm8 (e : RM Reg8) (ib : Byte) : Statement (.adcRm8Imm8 e ib) :=
  of_fieldsRM rfl (Nat.le_of_ble_eq_true rfl) rfl

theorem adcRm16Imm16 (e : RM Reg16) (iw : Word) : Statement (.adcRm16Imm16 e iw) :=
  of_fieldsRM rfl (Nat.le_of_ble_eq_true rfl) rfl

theorem adcRm16Imm8 (e : RM Reg16) (ib : Byte) : Statement (.adcRm16Imm8 e ib) :=
  of_fieldsRM rfl (Nat.le_of_ble_eq_true rfl) rfl

theorem sbbRm8R8 (e : RM Reg8) (g : Reg8) : Statement (.sbbRm8R8 e g) :=
  of_fieldsRM (imm := []) (List.append_nil _).symm (Nat.zero_le _) rfl

theorem sbbRm16R16 (e : RM Reg16) (g : Reg16) : Statement (.sbbRm16R16 e g) :=
  of_fieldsRM (imm := []) (List.append_nil _).symm (Nat.zero_le _) rfl

theorem sbbR8Rm8 (g : Reg8) (e : RM Reg8) : Statement (.sbbR8Rm8 g e) :=
  of_fieldsRM (imm := []) (List.append_nil _).symm (Nat.zero_le _) rfl

theorem sbbR16Rm16 (g : Reg16) (e : RM Reg16) : Statement (.sbbR16Rm16 g e) :=
  of_fieldsRM (imm := []) (List.append_nil _).symm (Nat.zero_le _) rfl

theorem sbbAlImm8 (ib : Byte) : Statement (.sbbAlImm8 ib) :=
  ⟨Nat.le_of_ble_eq_true rfl, Nat.le_of_ble_eq_true rfl, fun h => nomatch h⟩

theorem sbbAxImm16 (iw : Word) : Statement (.sbbAxImm16 iw) :=
  ⟨Nat.le_of_ble_eq_true rfl, Nat.le_of_ble_eq_true rfl, fun h => nomatch h⟩

theorem sbbRm8Imm8 (e : RM Reg8) (ib : Byte) : Statement (.sbbRm8Imm8 e ib) :=
  of_fieldsRM rfl (Nat.le_of_ble_eq_true rfl) rfl

theorem sbbRm16Imm16 (e : RM Reg16) (iw : Word) : Statement (.sbbRm16Imm16 e iw) :=
  of_fieldsRM rfl (Nat.le_of_ble_eq_true rfl) rfl

theorem sbbRm16Imm8 (e : RM Reg16) (ib : Byte) : Statement (.sbbRm16Imm8 e ib) :=
  of_fieldsRM rfl (Nat.le_of_ble_eq_true rfl) rfl

theorem andRm8R8 (e : RM Reg8) (g : Reg8) : Statement (.andRm8R8 e g) :=
  of_fieldsRM (imm := []) (List.append_nil _).symm (Nat.zero_le _) rfl

theorem andRm16R16 (e : RM Reg16) (g : Reg16) : Statement (.andRm16R16 e g) :=
  of_fieldsRM (imm := []) (List.append_nil _).symm (Nat.zero_le _) rfl

theorem andR8Rm8 (g : Reg8) (e : RM Reg8) : Statement (.andR8Rm8 g e) :=
  of_fieldsRM (imm := []) (List.append_nil _).symm (Nat.zero_le _) rfl

theorem andR16Rm16 (g : Reg16) (e : RM Reg16) : Statement (.andR16Rm16 g e) :=
  of_fieldsRM (imm := []) (List.append_nil _).symm (Nat.zero_le _) rfl

theorem andAlImm8 (ib : Byte) : Statement (.andAlImm8 ib) :=
  ⟨Nat.le_of_ble_eq_true rfl, Nat.le_of_ble_eq_true rfl, fun h => nomatch h⟩

theorem andAxImm16 (iw : Word) : Statement (.andAxImm16 iw) :=
  ⟨Nat.le_of_ble_eq_true rfl, Nat.le_of_ble_eq_true rfl, fun h => nomatch h⟩

theorem andRm8Imm8 (e : RM Reg8) (ib : Byte) : Statement (.andRm8Imm8 e ib) :=
  of_fieldsRM rfl (Nat.le_of_ble_eq_true rfl) rfl

theorem andRm16Imm16 (e : RM Reg16) (iw : Word) : Statement (.andRm16Imm16 e iw) :=
  of_fieldsRM rfl (Nat.le_of_ble_eq_true rfl) rfl

theorem andRm16Imm8 (e : RM Reg16) (ib : Byte) : Statement (.andRm16Imm8 e ib) :=
  of_fieldsRM rfl (Nat.le_of_ble_eq_true rfl) rfl

theorem subRm8R8 (e : RM Reg8) (g : Reg8) : Statement (.subRm8R8 e g) :=
  of_fieldsRM (imm := []) (List.append_nil _).symm (Nat.zero_le _) rfl

theorem subRm16R16 (e : RM Reg16) (g : Reg16) : Statement (.subRm16R16 e g) :=
  of_fieldsRM (imm := []) (List.append_nil _).symm (Nat.zero_le _) rfl

theorem subR8Rm8 (g : Reg8) (e : RM Reg8) : Statement (.subR8Rm8 g e) :=
  of_fieldsRM (imm := []) (List.append_nil _).symm (Nat.zero_le _) rfl

theorem subR16Rm16 (g : Reg16) (e : RM Reg16) : Statement (.subR16Rm16 g e) :=
  of_fieldsRM (imm := []) (List.append_nil _).symm (Nat.zero_le _) rfl

theorem subAlImm8 (ib : Byte) : Statement (.subAlImm8 ib) :=
  ⟨Nat.le_of_ble_eq_true rfl, Nat.le_of_ble_eq_true rfl, fun h => nomatch h⟩

theorem subAxImm16 (iw : Word) : Statement (.subAxImm16 iw) :=
  ⟨Nat.le_of_ble_eq_true rfl, Nat.le_of_ble_eq_true rfl, fun h => nomatch h⟩

theorem subRm8Imm8 (e : RM Reg8) (ib : Byte) : Statement (.subRm8Imm8 e ib) :=
  of_fieldsRM rfl (Nat.le_of_ble_eq_true rfl) rfl

theorem subRm16Imm16 (e : RM Reg16) (iw : Word) : Statement (.subRm16Imm16 e iw) :=
  of_fieldsRM rfl (Nat.le_of_ble_eq_true rfl) rfl

theorem subRm16Imm8 (e : RM Reg16) (ib : Byte) : Statement (.subRm16Imm8 e ib) :=
  of_fieldsRM rfl (Nat.le_of_ble_eq_true rfl) rfl

theorem xorRm8R8 (e : RM Reg8) (g : Reg8) : Statement (.xorRm8R8 e g) :=
  of_fieldsRM (imm := []) (List.append_nil _).symm (Nat.zero_le _) rfl

theorem xorRm16R16 (e : RM Reg16) (g : Reg16) : Statement (.xorRm16R16 e g) :=
  of_fieldsRM (imm := []) (List.append_nil _).symm (Nat.zero_le _) rfl

theorem xorR8Rm8 (g : Reg8) (e : RM Reg8) : Statement (.xorR8Rm8 g e) :=
  of_fieldsRM (imm := []) (List.append_nil _).symm (Nat.zero_le _) rfl

theorem xorR16Rm16 (g : Reg16) (e : RM Reg16) : Statement (.xorR16Rm16 g e) :=
  of_fieldsRM (imm := []) (List.append_nil _).symm (Nat.zero_le _) rfl

theorem xorAlImm8 (ib : Byte) : Statement (.xorAlImm8 ib) :=
  ⟨Nat.le_of_ble_eq_true rfl, Nat.le_of_ble_eq_true rfl, fun h => nomatch h⟩

theorem xorAxImm16 (iw : Word) : Statement (.xorAxImm16 iw) :=
  ⟨Nat.le_of_ble_eq_true rfl, Nat.le_of_ble_eq_true rfl, fun h => nomatch h⟩

theorem xorRm8Imm8 (e : RM Reg8) (ib : Byte) : Statement (.xorRm8Imm8 e ib) :=
  of_fieldsRM rfl (Nat.le_of_ble_eq_true rfl) rfl

theorem xorRm16Imm16 (e : RM Reg16) (iw : Word) : Statement (.xorRm16Imm16 e iw) :=
  of_fieldsRM rfl (Nat.le_of_ble_eq_true rfl) rfl

theorem xorRm16Imm8 (e : RM Reg16) (ib : Byte) : Statement (.xorRm16Imm8 e ib) :=
  of_fieldsRM rfl (Nat.le_of_ble_eq_true rfl) rfl

theorem cmpRm8R8 (e : RM Reg8) (g : Reg8) : Statement (.cmpRm8R8 e g) :=
  of_fieldsRM (imm := []) (List.append_nil _).symm (Nat.zero_le _) rfl

theorem cmpRm16R16 (e : RM Reg16) (g : Reg16) : Statement (.cmpRm16R16 e g) :=
  of_fieldsRM (imm := []) (List.append_nil _).symm (Nat.zero_le _) rfl

theorem cmpR8Rm8 (g : Reg8) (e : RM Reg8) : Statement (.cmpR8Rm8 g e) :=
  of_fieldsRM (imm := []) (List.append_nil _).symm (Nat.zero_le _) rfl

theorem cmpR16Rm16 (g : Reg16) (e : RM Reg16) : Statement (.cmpR16Rm16 g e) :=
  of_fieldsRM (imm := []) (List.append_nil _).symm (Nat.zero_le _) rfl

theorem cmpAlImm8 (ib : Byte) : Statement (.cmpAlImm8 ib) :=
  ⟨Nat.le_of_ble_eq_true rfl, Nat.le_of_ble_eq_true rfl, fun h => nomatch h⟩

theorem cmpAxImm16 (iw : Word) : Statement (.cmpAxImm16 iw) :=
  ⟨Nat.le_of_ble_eq_true rfl, Nat.le_of_ble_eq_true rfl, fun h => nomatch h⟩

theorem cmpRm8Imm8 (e : RM Reg8) (ib : Byte) : Statement (.cmpRm8Imm8 e ib) :=
  of_fieldsRM rfl (Nat.le_of_ble_eq_true rfl) rfl

theorem cmpRm16Imm16 (e : RM Reg16) (iw : Word) : Statement (.cmpRm16Imm16 e iw) :=
  of_fieldsRM rfl (Nat.le_of_ble_eq_true rfl) rfl

theorem cmpRm16Imm8 (e : RM Reg16) (ib : Byte) : Statement (.cmpRm16Imm8 e ib) :=
  of_fieldsRM rfl (Nat.le_of_ble_eq_true rfl) rfl

theorem mulRm8 (e : RM Reg8) : Statement (.mulRm8 e) :=
  of_fieldsRM (imm := []) (List.append_nil _).symm (Nat.zero_le _) rfl

theorem mulRm16 (e : RM Reg16) : Statement (.mulRm16 e) :=
  of_fieldsRM (imm := []) (List.append_nil _).symm (Nat.zero_le _) rfl

theorem divRm16 (e : RM Reg16) : Statement (.divRm16 e) :=
  of_fieldsRM (imm := []) (List.append_nil _).symm (Nat.zero_le _) rfl

theorem movRm8R8 (e : RM Reg8) (g : Reg8) : Statement (.movRm8R8 e g) :=
  of_fieldsRM (imm := []) (List.append_nil _).symm (Nat.zero_le _) rfl

theorem movRm16R16 (e : RM Reg16) (g : Reg16) : Statement (.movRm16R16 e g) :=
  of_fieldsRM (imm := []) (List.append_nil _).symm (Nat.zero_le _) rfl

theorem movR8Rm8 (g : Reg8) (e : RM Reg8) : Statement (.movR8Rm8 g e) :=
  of_fieldsRM (imm := []) (List.append_nil _).symm (Nat.zero_le _) rfl

theorem movR16Rm16 (g : Reg16) (e : RM Reg16) : Statement (.movR16Rm16 g e) :=
  of_fieldsRM (imm := []) (List.append_nil _).symm (Nat.zero_le _) rfl

theorem movRm16Sreg (e : RM Reg16) (sr : SegReg) : Statement (.movRm16Sreg e sr) :=
  of_fieldsRM (imm := []) (List.append_nil _).symm (Nat.zero_le _) rfl

theorem movSregRm16 (sr : SegReg) (e : RM Reg16) : Statement (.movSregRm16 sr e) :=
  of_fieldsRM (imm := []) (List.append_nil _).symm (Nat.zero_le _) rfl

theorem leaR16M (g : Reg16) (m : MemForm) : Statement (.leaR16M g m) :=
  ⟨by cases m <;> exact Nat.le_of_ble_eq_true rfl, by cases m <;> exact Nat.le_of_ble_eq_true rfl, fun h => nomatch h⟩

theorem movAlMoffs8 (off : Word) : Statement (.movAlMoffs8 off) :=
  ⟨Nat.le_of_ble_eq_true rfl, Nat.le_of_ble_eq_true rfl, fun h => nomatch h⟩

theorem movAxMoffs16 (off : Word) : Statement (.movAxMoffs16 off) :=
  ⟨Nat.le_of_ble_eq_true rfl, Nat.le_of_ble_eq_true rfl, fun h => nomatch h⟩

theorem movMoffs8Al (off : Word) : Statement (.movMoffs8Al off) :=
  ⟨Nat.le_of_ble_eq_true rfl, Nat.le_of_ble_eq_true rfl, fun h => nomatch h⟩

theorem movMoffs16Ax (off : Word) : Statement (.movMoffs16Ax off) :=
  ⟨Nat.le_of_ble_eq_true rfl, Nat.le_of_ble_eq_true rfl, fun h => nomatch h⟩

theorem movR8Imm8 (r : Reg8) (ib : Byte) : Statement (.movR8Imm8 r ib) :=
  ⟨Nat.le_of_ble_eq_true rfl, Nat.le_of_ble_eq_true rfl, fun h => nomatch h⟩

theorem movR16Imm16 (r : Reg16) (iw : Word) : Statement (.movR16Imm16 r iw) :=
  ⟨Nat.le_of_ble_eq_true rfl, Nat.le_of_ble_eq_true rfl, fun h => nomatch h⟩

theorem movRm8Imm8 (e : RM Reg8) (ib : Byte) : Statement (.movRm8Imm8 e ib) :=
  of_fieldsRM rfl (Nat.le_of_ble_eq_true rfl) rfl

theorem movRm16Imm16 (e : RM Reg16) (iw : Word) : Statement (.movRm16Imm16 e iw) :=
  of_fieldsRM rfl (Nat.le_of_ble_eq_true rfl) rfl

theorem nop : Statement .nop :=
  ⟨Nat.le_of_ble_eq_true rfl, Nat.le_of_ble_eq_true rfl, fun h => nomatch h⟩

theorem pushR16 (r : Reg16) : Statement (.pushR16 r) :=
  ⟨Nat.le_of_ble_eq_true rfl, Nat.le_of_ble_eq_true rfl, fun h => nomatch h⟩

theorem popR16 (r : Reg16) : Statement (.popR16 r) :=
  ⟨Nat.le_of_ble_eq_true rfl, Nat.le_of_ble_eq_true rfl, fun h => nomatch h⟩

theorem pushEs : Statement .pushEs :=
  ⟨Nat.le_of_ble_eq_true rfl, Nat.le_of_ble_eq_true rfl, fun h => nomatch h⟩

theorem pushCs : Statement .pushCs :=
  ⟨Nat.le_of_ble_eq_true rfl, Nat.le_of_ble_eq_true rfl, fun h => nomatch h⟩

theorem pushSs : Statement .pushSs :=
  ⟨Nat.le_of_ble_eq_true rfl, Nat.le_of_ble_eq_true rfl, fun h => nomatch h⟩

theorem pushDs : Statement .pushDs :=
  ⟨Nat.le_of_ble_eq_true rfl, Nat.le_of_ble_eq_true rfl, fun h => nomatch h⟩

theorem popEs : Statement .popEs :=
  ⟨Nat.le_of_ble_eq_true rfl, Nat.le_of_ble_eq_true rfl, fun h => nomatch h⟩

theorem popSs : Statement .popSs :=
  ⟨Nat.le_of_ble_eq_true rfl, Nat.le_of_ble_eq_true rfl, fun h => nomatch h⟩

theorem popDs : Statement .popDs :=
  ⟨Nat.le_of_ble_eq_true rfl, Nat.le_of_ble_eq_true rfl, fun h => nomatch h⟩

theorem jmpRel8 (d : Byte) : Statement (.jmpRel8 d) :=
  ⟨Nat.le_of_ble_eq_true rfl, Nat.le_of_ble_eq_true rfl, fun h => nomatch h⟩

theorem jmpRel16 (d : Word) : Statement (.jmpRel16 d) :=
  ⟨Nat.le_of_ble_eq_true rfl, Nat.le_of_ble_eq_true rfl, fun h => nomatch h⟩

theorem jmpFar (off : Word) (sel : Word) : Statement (.jmpFar off sel) :=
  ⟨Nat.le_of_ble_eq_true rfl, Nat.le_of_ble_eq_true rfl, fun h => nomatch h⟩

theorem joRel8 (d : Byte) : Statement (.joRel8 d) :=
  ⟨Nat.le_of_ble_eq_true rfl, Nat.le_of_ble_eq_true rfl, fun h => nomatch h⟩

theorem jnoRel8 (d : Byte) : Statement (.jnoRel8 d) :=
  ⟨Nat.le_of_ble_eq_true rfl, Nat.le_of_ble_eq_true rfl, fun h => nomatch h⟩

theorem jbRel8 (d : Byte) : Statement (.jbRel8 d) :=
  ⟨Nat.le_of_ble_eq_true rfl, Nat.le_of_ble_eq_true rfl, fun h => nomatch h⟩

theorem jnbRel8 (d : Byte) : Statement (.jnbRel8 d) :=
  ⟨Nat.le_of_ble_eq_true rfl, Nat.le_of_ble_eq_true rfl, fun h => nomatch h⟩

theorem jzRel8 (d : Byte) : Statement (.jzRel8 d) :=
  ⟨Nat.le_of_ble_eq_true rfl, Nat.le_of_ble_eq_true rfl, fun h => nomatch h⟩

theorem jnzRel8 (d : Byte) : Statement (.jnzRel8 d) :=
  ⟨Nat.le_of_ble_eq_true rfl, Nat.le_of_ble_eq_true rfl, fun h => nomatch h⟩

theorem jbeRel8 (d : Byte) : Statement (.jbeRel8 d) :=
  ⟨Nat.le_of_ble_eq_true rfl, Nat.le_of_ble_eq_true rfl, fun h => nomatch h⟩

theorem jaRel8 (d : Byte) : Statement (.jaRel8 d) :=
  ⟨Nat.le_of_ble_eq_true rfl, Nat.le_of_ble_eq_true rfl, fun h => nomatch h⟩

theorem jsRel8 (d : Byte) : Statement (.jsRel8 d) :=
  ⟨Nat.le_of_ble_eq_true rfl, Nat.le_of_ble_eq_true rfl, fun h => nomatch h⟩

theorem jnsRel8 (d : Byte) : Statement (.jnsRel8 d) :=
  ⟨Nat.le_of_ble_eq_true rfl, Nat.le_of_ble_eq_true rfl, fun h => nomatch h⟩

theorem jpRel8 (d : Byte) : Statement (.jpRel8 d) :=
  ⟨Nat.le_of_ble_eq_true rfl, Nat.le_of_ble_eq_true rfl, fun h => nomatch h⟩

theorem jnpRel8 (d : Byte) : Statement (.jnpRel8 d) :=
  ⟨Nat.le_of_ble_eq_true rfl, Nat.le_of_ble_eq_true rfl, fun h => nomatch h⟩

theorem jlRel8 (d : Byte) : Statement (.jlRel8 d) :=
  ⟨Nat.le_of_ble_eq_true rfl, Nat.le_of_ble_eq_true rfl, fun h => nomatch h⟩

theorem jgeRel8 (d : Byte) : Statement (.jgeRel8 d) :=
  ⟨Nat.le_of_ble_eq_true rfl, Nat.le_of_ble_eq_true rfl, fun h => nomatch h⟩

theorem jleRel8 (d : Byte) : Statement (.jleRel8 d) :=
  ⟨Nat.le_of_ble_eq_true rfl, Nat.le_of_ble_eq_true rfl, fun h => nomatch h⟩

theorem jgRel8 (d : Byte) : Statement (.jgRel8 d) :=
  ⟨Nat.le_of_ble_eq_true rfl, Nat.le_of_ble_eq_true rfl, fun h => nomatch h⟩

theorem callRel16 (d : Word) : Statement (.callRel16 d) :=
  ⟨Nat.le_of_ble_eq_true rfl, Nat.le_of_ble_eq_true rfl, fun h => nomatch h⟩

theorem callFar (off : Word) (sel : Word) : Statement (.callFar off sel) :=
  ⟨Nat.le_of_ble_eq_true rfl, Nat.le_of_ble_eq_true rfl, fun h => nomatch h⟩

theorem ret : Statement .ret :=
  ⟨Nat.le_of_ble_eq_true rfl, Nat.le_of_ble_eq_true rfl, fun h => nomatch h⟩

theorem retImm16 (iw : Word) : Statement (.retImm16 iw) :=
  ⟨Nat.le_of_ble_eq_true rfl, Nat.le_of_ble_eq_true rfl, fun h => nomatch h⟩

theorem retf : Statement .retf :=
  ⟨Nat.le_of_ble_eq_true rfl, Nat.le_of_ble_eq_true rfl, fun h => nomatch h⟩

theorem retfImm16 (iw : Word) : Statement (.retfImm16 iw) :=
  ⟨Nat.le_of_ble_eq_true rfl, Nat.le_of_ble_eq_true rfl, fun h => nomatch h⟩

theorem movsb : Statement .movsb :=
  ⟨Nat.le_of_ble_eq_true rfl, Nat.le_of_ble_eq_true rfl, fun h => nomatch h⟩

theorem cmpsb : Statement .cmpsb :=
  ⟨Nat.le_of_ble_eq_true rfl, Nat.le_of_ble_eq_true rfl, fun h => nomatch h⟩

theorem lodsb : Statement .lodsb :=
  ⟨Nat.le_of_ble_eq_true rfl, Nat.le_of_ble_eq_true rfl, fun h => nomatch h⟩

theorem intImm8 (n : Byte) : Statement (.intImm8 n) :=
  ⟨Nat.le_of_ble_eq_true rfl, Nat.le_of_ble_eq_true rfl, fun h => nomatch h⟩

theorem clc : Statement .clc :=
  ⟨Nat.le_of_ble_eq_true rfl, Nat.le_of_ble_eq_true rfl, fun h => nomatch h⟩

theorem stc : Statement .stc :=
  ⟨Nat.le_of_ble_eq_true rfl, Nat.le_of_ble_eq_true rfl, fun h => nomatch h⟩

theorem cmc : Statement .cmc :=
  ⟨Nat.le_of_ble_eq_true rfl, Nat.le_of_ble_eq_true rfl, fun h => nomatch h⟩

theorem cli : Statement .cli :=
  ⟨Nat.le_of_ble_eq_true rfl, Nat.le_of_ble_eq_true rfl, fun h => nomatch h⟩

theorem sti : Statement .sti :=
  ⟨Nat.le_of_ble_eq_true rfl, Nat.le_of_ble_eq_true rfl, fun h => nomatch h⟩

theorem cld : Statement .cld :=
  ⟨Nat.le_of_ble_eq_true rfl, Nat.le_of_ble_eq_true rfl, fun h => nomatch h⟩

theorem std : Statement .std :=
  ⟨Nat.le_of_ble_eq_true rfl, Nat.le_of_ble_eq_true rfl, fun h => nomatch h⟩

theorem esOverride : Statement .esOverride :=
  ⟨Nat.le_of_ble_eq_true rfl, Nat.le_of_ble_eq_true rfl, fun _ => rfl⟩

theorem csOverride : Statement .csOverride :=
  ⟨Nat.le_of_ble_eq_true rfl, Nat.le_of_ble_eq_true rfl, fun _ => rfl⟩

theorem ssOverride : Statement .ssOverride :=
  ⟨Nat.le_of_ble_eq_true rfl, Nat.le_of_ble_eq_true rfl, fun _ => rfl⟩

theorem dsOverride : Statement .dsOverride :=
  ⟨Nat.le_of_ble_eq_true rfl, Nat.le_of_ble_eq_true rfl, fun _ => rfl⟩

theorem fsOverride : Statement .fsOverride :=
  ⟨Nat.le_of_ble_eq_true rfl, Nat.le_of_ble_eq_true rfl, fun _ => rfl⟩

theorem gsOverride : Statement .gsOverride :=
  ⟨Nat.le_of_ble_eq_true rfl, Nat.le_of_ble_eq_true rfl, fun _ => rfl⟩

theorem repPrefix : Statement .repPrefix :=
  ⟨Nat.le_of_ble_eq_true rfl, Nat.le_of_ble_eq_true rfl, fun _ => rfl⟩

end Sys2Proof.Laws.EncodeLength
end

