-- ==== Sys2Proof/Laws/Step.lean ====
section
/-! SUPPORT. Once for `cycle` and `step`: the ways a Cycle can end (40_cycle.md R202, R209), and induction over the prefix
bytes. Every statement about every Cycle is a short case analysis on `cycle_cases` or `step_cases`. -/

namespace Sys2Proof.Machine

/-- A Cycle ends in one of three ways: a fault was latched before, a decode failure, or the retirement of the fetched
instruction after its prefixes. No handler ran before. -/
theorem cycle_cases {s t : State} {e : Event} (h : cycle s = .next (e, t)) : s.inh = false ∧
    ((∃ f, s.fault = some f ∧ e = .faulted f ∧ t = s) ∨
     (s.fault = none ∧ ∃ c, s.fetchCycle = .illegal c ∧ e = .faulted (s.illegalAt c.seen) ∧ t = s.decodeFail c) ∨
     (s.fault = none ∧ ∃ ps i c atExec u, s.fetchCycle = .ok ps i c ∧
       runPrefixes ps (s.fetched c.pos) = .next atExec ∧ exec i atExec = .next u ∧
       e = u.event ∧ t = u.retire s atExec i c.seen)) := by
  rw [cycle] at h
  split at h
  · cases h
  · rename_i hi
    refine ⟨by simpa using hi, ?_⟩
    split at h
    · rename_i f hf
      cases h
      exact .inl ⟨f, hf, rfl, rfl⟩
    · rename_i hf
      refine .inr ?_
      split at h
      · rename_i c hc
        cases h
        exact .inl ⟨hf, c, hc, rfl, rfl⟩
      · rename_i ps i c hc
        split at h
        · cases h
        · cases h
        · rename_i a ha
          split at h
          · cases h
          · cases h
          · rename_i u hu
            cases h
            exact .inr ⟨hf, ps, i, c, a, u, hc, ha, hu, rfl, rfl⟩

/-- The event of a Cycle that retires is no fault. -/
theorem event_ne_faulted (s : State) (f : IllegalOpcode) : s.event ≠ .faulted f := by
  rw [State.event]
  split <;> simp

/-- A Cycle that returns a fault is that fault to the host's interface. -/
theorem step_of_faulted {s t : State} {f : IllegalOpcode} (h : cycle s = .next (.faulted f, t)) :
    step s = .fault (.illegalOpcode f) := by
  rw [step, h]
  rfl

/-- A Cycle that retires is a next state to the host's interface. -/
theorem step_of_event {s t u : State} (h : cycle s = .next (u.event, t)) : step s = .next t := by
  rw [step, h, State.event]
  cases u.signal <;> rfl

/-- A next state of `step` is the state of a Cycle that returned no fault. -/
theorem cycle_of_step {s t : State} (h : step s = .next t) : ∃ e, cycle s = .next (e, t) ∧ ∀ f, e ≠ .faulted f := by
  rw [step] at h
  split at h
  · rename_i r hr
    obtain ⟨e, u⟩ := r
    cases e <;> cases h
    all_goals exact ⟨_, hr, fun f => by simp⟩
  · cases h
  · cases h

/-- A next state of `step` is the retirement of the fetched instruction after its prefixes. -/
theorem step_cases {s t : State} (h : step s = .next t) : s.inh = false ∧ s.fault = none ∧
    ∃ ps i c atExec u, s.fetchCycle = .ok ps i c ∧ runPrefixes ps (s.fetched c.pos) = .next atExec ∧
      exec i atExec = .next u ∧ t = u.retire s atExec i c.seen := by
  obtain ⟨e, hc, he⟩ := cycle_of_step h
  obtain ⟨hi, ⟨f, -, hf, -⟩ | ⟨-, c, -, hf, -⟩ | ⟨hf, ps, i, c, a, u, h1, h2, h3, -, h4⟩⟩ := cycle_cases hc
  · exact absurd hf (he _)
  · exact absurd hf (he _)
  · exact ⟨hi, hf, ps, i, c, a, u, h1, h2, h3, h4⟩

/-- What every instruction keeps, a run of prefix bytes keeps. -/
theorem runPrefixes_keeps {P : State → Prop} (hP : ∀ i s t, P s → exec i s = .next t → P t) (ps : List Instr)
    {s t : State} (h : runPrefixes ps s = .next t) (hs : P s) : P t := by
  induction ps generalizing s with
  | nil =>
    cases h
    exact hs
  | cons p ps ih =>
    rw [runPrefixes] at h
    split at h
    · rename_i u hu
      exact ih h (hP _ _ _ hs hu)
    · cases h
    · cases h

/-- A Cycle on a well-fetched instruction, from what its prefixes and its meaning answer. -/
theorem cycle_of_fetch {s atExec t : State} {ps : List Instr} {i : Instr} {c : Cursor FetchPos} (hr : s.ready)
    (hf : s.fetchCycle = .ok ps i c) (hp : runPrefixes ps (s.fetched c.pos) = .next atExec)
    (he : exec i atExec = .next t) : cycle s = .next (t.event, t.retire s atExec i c.seen) := by
  simp [cycle, hr.inh, hr.fault, hf, hp, he]

theorem step_of_fetch {s atExec t : State} {ps : List Instr} {i : Instr} {c : Cursor FetchPos} (hr : s.ready)
    (hf : s.fetchCycle = .ok ps i c) (hp : runPrefixes ps (s.fetched c.pos) = .next atExec)
    (he : exec i atExec = .next t) : step s = .next (t.retire s atExec i c.seen) :=
  step_of_event (cycle_of_fetch hr hf hp he)

/-- A Cycle on a decode failure. -/
theorem cycle_of_illegal {s : State} {c : Cursor FetchPos} (hr : s.ready) (hf : s.fetchCycle = .illegal c) :
    cycle s = .next (.faulted (s.illegalAt c.seen), s.decodeFail c) := by
  simp [cycle, hr.inh, hr.fault, hf]

/-! ### What the fetch reads (40_cycle.md R203) -/

/-- Where the fetch of a whole instruction stopped. -/
@[simp] def Fetched.cursor {σ : Type} : Fetched σ → Cursor σ
  | .ok _ _ c => c
  | .illegal c => c

/-- Whatever reading keeps, the prefix loop keeps. -/
theorem prefixLoop_keeps {σ : Type} {F : Fetcher σ} {P : σ → Prop} (hF : KeptBy F P) (room : Nat) {c : Cursor σ}
    (h : P c.pos) : P (prefixLoop F room c).cursor.pos := by
  induction room generalizing c with
  | zero =>
    have hd := decodeFrom_keeps (F := F) hF h
    rw [prefixLoop]
    split
    · rename_i hc
      rwa [hc] at hd
    · rename_i hc
      rw [hc] at hd
      split <;> exact hd
  | succ room ih =>
    have hd := decodeFrom_keeps (F := F) hF h
    rw [prefixLoop]
    split
    · rename_i hc
      rwa [hc] at hd
    · rename_i hc
      rw [hc] at hd
      split
      · have hl := ih hd
        simp only [Decoded.cursor] at hl
        dsimp only
        split
        · rename_i hc
          rwa [hc] at hl
        · rename_i hc
          rwa [hc] at hl
      · exact hd

/-- A bus operation that only reads leaves plain memory and the devices' places as they are. -/
theorem after_read_same (b : Bus) (op : BusOp) (h : op.stores = []) :
    (b.after op).ram = b.ram ∧ (b.after op).devices = b.devices := by
  refine ⟨?_, Bus.after_devices b op⟩
  rw [Bus.after]
  split
  · rfl
  · cases op <;> first | rfl | simp [BusOp.stores] at h

/-- The fetch only reads: wherever it stops, plain memory and the devices' places are as before. -/
theorem fetchCycle_reads (s : State) :
    s.fetchCycle.cursor.pos.bus.ram = s.bus.ram ∧ s.fetchCycle.cursor.pos.bus.devices = s.bus.devices := by
  refine prefixLoop_keeps (P := fun p : FetchPos => p.bus.ram = s.bus.ram ∧ p.bus.devices = s.bus.devices) ⟨?_, ?_⟩ _ ⟨rfl, rfl⟩
  · rintro p b q h ⟨h1, h2⟩
    cases h
    obtain ⟨h3, h4⟩ := after_read_same p.bus (.readByte (s.codeAddr p.ip)) rfl
    exact ⟨h3.trans h1, h4.trans h2⟩
  · rintro p lo hi q h ⟨h1, h2⟩
    cases h
    obtain ⟨h3, h4⟩ := after_read_same p.bus (.readWord (s.codeAddr p.ip)) rfl
    exact ⟨h3.trans h1, h4.trans h2⟩

@[simp] theorem readCode_segs (s : State) (off : Word) (fs : List Field) : (s.readCode off fs).segs = s.segs := by
  induction fs generalizing s off with
  | nil => rfl
  | cons f fs ih =>
    cases f
    all_goals
      rw [State.readCode, ih]
      rfl

/-- The fetch changes the bus alone. -/
theorem readCode_eq (s : State) (off : Word) (fs : List Field) :
    s.readCode off fs = { s with bus := (s.readCode off fs).bus } := by
  induction fs generalizing s off with
  | nil => rfl
  | cons f fs ih =>
    cases f
    all_goals
      rw [State.readCode, ih]
      rfl

/-- It only reads: plain memory and the devices' places are as before. -/
theorem readCode_ram (s : State) (off : Word) (fs : List Field) :
    (s.readCode off fs).bus.ram = s.bus.ram ∧ (s.readCode off fs).bus.devices = s.bus.devices := by
  induction fs generalizing s off with
  | nil => exact ⟨rfl, rfl⟩
  | cons f fs ih =>
    cases f
    · obtain ⟨h1, h2⟩ := after_read_same s.bus (.readByte (s.codeAddr off)) rfl
      exact ⟨(ih _ _).1.trans h1, (ih _ _).2.trans h2⟩
    · obtain ⟨h1, h2⟩ := after_read_same s.bus (.readWord (s.codeAddr off)) rfl
      exact ⟨(ih _ _).1.trans h1, (ih _ _).2.trans h2⟩

end Sys2Proof.Machine
end

