-- ==== Sys2Proof/Laws/Strings.lean ====
section
/-! SUPPORT. The string units, field by field, and the repeat loop unrolled (46_string.md R430 to R434). -/

namespace Sys2Proof.Machine

/-! ### The direction does not change under a unit -/

theorem delta_congr {s t : State} (h : t.flag .DF = s.flag .DF) : t.delta = s.delta := by
  simp only [State.delta, h]

@[simp] theorem delta_set16 (s : State) (c : Reg16) (v : Word) : (s.set16 c v).delta = s.delta := rfl
@[simp] theorem delta_set8 (s : State) (c : Reg8) (v : Byte) : (s.set8 c v).delta = s.delta := rfl
@[simp] theorem delta_writeByte (s : State) (a : Addr) (v : Byte) : (s.writeByte a v).delta = s.delta := rfl
@[simp] theorem delta_sawByte (s : State) (a : Addr) : (s.sawByte a).delta = s.delta := rfl
@[simp] theorem delta_advanceSi (s : State) : s.advanceSi.delta = s.delta := rfl
@[simp] theorem delta_advanceDi (s : State) : s.advanceDi.delta = s.delta := rfl
@[simp] theorem delta_decCx (s : State) : s.decCx.delta = s.delta := rfl

@[simp] theorem delta_setStatus (s : State) (fl : StatusFlags) : (s.setStatus fl).delta = s.delta :=
  delta_congr (by simp [State.setStatus])

@[simp] theorem delta_movsbUnit (s : State) : (movsbUnit s).delta = s.delta := rfl
@[simp] theorem delta_cmpsbUnit (s : State) : (cmpsbUnit s).delta = s.delta := by simp [cmpsbUnit]
@[simp] theorem delta_lodsbUnit (s : State) : (lodsbUnit s).delta = s.delta := rfl

/-- One unit in the direction of DF. -/
theorem add_delta (s : State) (x : Word) : x + s.delta = s.stepped x 1 := by
  simp only [State.delta, State.stepped]
  split
  · rw [show (-1 : Word) = 0 - 1 from rfl]; bv_omega
  · rfl

/-- A byte-register write leaves the word registers of other slots alone. -/
theorem RegFile.get16_set8_other (r : RegFile) {c : Reg8} {b : Reg16} (v : Byte) (h : b.slot ≠ c.slot) :
    (r.set8 c v).get16 b = r.get16 b := by
  simp only [RegFile.get16, RegFile.set8, RegFile.r16]
  split
  · rw [RegFile.get_setR8H_other r v h]
  · rw [RegFile.get_setR8L_other r v h]

/-! ### The units -/

/-- MOVSB's registers: SI and DI move. -/
theorem movsbUnit_regs (s : State) :
    (movsbUnit s).regs = (s.regs.set16 .si (s.get16 .si + s.delta)).set16 .di (s.get16 .di + s.delta) := by
  simp only [movsbUnit, State.advanceDi_regs, State.advanceSi_regs, State.writeByte_regs,
    State.sawByte_regs, State.get16, delta_advanceSi, delta_writeByte, delta_sawByte, RegFile.get16_set16, reduceCtorEq, if_false]

/-- CMPSB's registers: SI and DI move. -/
theorem cmpsbUnit_regs (s : State) :
    (cmpsbUnit s).regs = (s.regs.set16 .si (s.get16 .si + s.delta)).set16 .di (s.get16 .di + s.delta) := by
  simp only [cmpsbUnit, State.advanceDi_regs, State.advanceSi_regs, State.setStatus_regs,
    State.sawByte_regs, State.get16, delta_advanceSi, delta_setStatus, delta_sawByte, RegFile.get16_set16, reduceCtorEq, if_false]

/-- LODSB's registers: AL is loaded, SI moves. -/
theorem lodsbUnit_regs (s : State) :
    (lodsbUnit s).regs = (s.regs.set8 .al (s.readByte s.stringSrc)).set16 .si (s.get16 .si + s.delta) := by
  simp only [lodsbUnit, State.advanceSi_regs, State.set8_regs, State.sawByte_regs, State.get16, delta_set8, delta_sawByte]
  rw [RegFile.get16_set8_other _ _ (by decide)]

/-! What each unit does on the bus (46_string.md R432 to R434). -/

theorem movsbUnit_bus (s : State) :
    (movsbUnit s).bus = s.bus.run [.readByte s.stringSrc, .writeByte s.stringDst (s.readByte s.stringSrc)] := rfl

theorem cmpsbUnit_bus (s : State) :
    (cmpsbUnit s).bus = s.bus.run [.readByte s.stringSrc, .readByte s.stringDst] := by simp [cmpsbUnit]

theorem lodsbUnit_bus (s : State) : (lodsbUnit s).bus = s.bus.run [.readByte s.stringSrc] := rfl

@[simp] theorem movsbUnit_segs (s : State) : (movsbUnit s).segs = s.segs := rfl
@[simp] theorem cmpsbUnit_segs (s : State) : (cmpsbUnit s).segs = s.segs := by simp [cmpsbUnit]
@[simp] theorem lodsbUnit_segs (s : State) : (lodsbUnit s).segs = s.segs := rfl
@[simp] theorem movsbUnit_ads (s : State) : (movsbUnit s).ads = s.ads := rfl
@[simp] theorem cmpsbUnit_ads (s : State) : (cmpsbUnit s).ads = s.ads := by simp [cmpsbUnit]
@[simp] theorem lodsbUnit_ads (s : State) : (lodsbUnit s).ads = s.ads := rfl
@[simp] theorem movsbUnit_flags (s : State) : (movsbUnit s).flags = s.flags := rfl
@[simp] theorem lodsbUnit_flags (s : State) : (lodsbUnit s).flags = s.flags := rfl

theorem setStatus_flags_congr {s t : State} (h : t.flags = s.flags) (fl : StatusFlags) :
    (t.setStatus fl).flags = (s.setStatus fl).flags := by
  simp only [State.setStatus, State.setFlag_flags, h]

/-- CMPSB's flags (46_string.md R433). -/
theorem cmpsbUnit_flags (s : State) : (cmpsbUnit s).flags =
    (s.setStatus (subB (s.readByte s.stringSrc) ((s.sawByte s.stringSrc).readByte s.stringDst) false).2).flags :=
  setStatus_flags_congr rfl _

/-- No unit touches the sequencer's state. -/
theorem movsbUnit_sequencer (s : State) : sameSequencer s (movsbUnit s) := ⟨rfl, rfl, rfl, rfl, rfl, rfl, rfl⟩
theorem cmpsbUnit_sequencer (s : State) : sameSequencer s (cmpsbUnit s) := by constructor <;> simp [cmpsbUnit]
theorem lodsbUnit_sequencer (s : State) : sameSequencer s (lodsbUnit s) := ⟨rfl, rfl, rfl, rfl, rfl, rfl, rfl⟩

/-! ### No unit reads REP -/

theorem setStatus_withRep (s : State) (fl : StatusFlags) (b : Bool) :
    ({ s with rep := b } : State).setStatus fl = { s.setStatus fl with rep := b } := rfl

theorem movsbUnit_withRep (s : State) (b : Bool) : movsbUnit { s with rep := b } = { movsbUnit s with rep := b } := rfl

theorem lodsbUnit_withRep (s : State) (b : Bool) : lodsbUnit { s with rep := b } = { lodsbUnit s with rep := b } := rfl

theorem cmpsbUnit_withRep (s : State) (b : Bool) : cmpsbUnit { s with rep := b } = { cmpsbUnit s with rep := b } := by
  have h : ∀ t : State, ({ t with rep := b } : State).advanceSi.advanceDi = { t.advanceSi.advanceDi with rep := b } :=
    fun _ => rfl
  exact (congrArg (fun u => u.advanceSi.advanceDi) (setStatus_withRep ((s.sawByte s.stringSrc).sawByte s.stringDst) (subB
    (s.readByte s.stringSrc) ((s.sawByte s.stringSrc).readByte s.stringDst) false).2 b)).trans (h _)

/-! ### No unit writes CX; what each leaves in SI and DI -/

@[simp] theorem movsbUnit_cx (s : State) : (movsbUnit s).get16 .cx = s.get16 .cx := by
  simp [State.get16, movsbUnit_regs]
@[simp] theorem cmpsbUnit_cx (s : State) : (cmpsbUnit s).get16 .cx = s.get16 .cx := by
  simp [State.get16, cmpsbUnit_regs]
@[simp] theorem lodsbUnit_cx (s : State) : (lodsbUnit s).get16 .cx = s.get16 .cx := by
  simp [State.get16, lodsbUnit_regs, RegFile.get16_set8_other _ _ (show Reg16.cx.slot ≠ Reg8.al.slot by decide)]
@[simp] theorem movsbUnit_si (s : State) : (movsbUnit s).get16 .si = s.get16 .si + s.delta := by
  simp [State.get16, movsbUnit_regs]
@[simp] theorem cmpsbUnit_si (s : State) : (cmpsbUnit s).get16 .si = s.get16 .si + s.delta := by
  simp [State.get16, cmpsbUnit_regs]
@[simp] theorem lodsbUnit_si (s : State) : (lodsbUnit s).get16 .si = s.get16 .si + s.delta := by
  simp [State.get16, lodsbUnit_regs]
@[simp] theorem movsbUnit_di (s : State) : (movsbUnit s).get16 .di = s.get16 .di + s.delta := by
  simp [State.get16, movsbUnit_regs]
@[simp] theorem cmpsbUnit_di (s : State) : (cmpsbUnit s).get16 .di = s.get16 .di + s.delta := by
  simp [State.get16, cmpsbUnit_regs]
@[simp] theorem lodsbUnit_di (s : State) : (lodsbUnit s).get16 .di = s.get16 .di := by
  simp [State.get16, lodsbUnit_regs, RegFile.get16_set8_other _ _ (show Reg16.di.slot ≠ Reg8.al.slot by decide)]

@[simp] theorem decCx_cx (s : State) : s.decCx.get16 .cx = s.get16 .cx - 1 := by simp [State.get16]
@[simp] theorem decCx_si (s : State) : s.decCx.get16 .si = s.get16 .si := by simp [State.get16]
@[simp] theorem decCx_di (s : State) : s.decCx.get16 .di = s.get16 .di := by simp [State.get16]

/-! ### The repeat loop (46_string.md R431) -/

/-- The loop ends at once when CX is 0. -/
theorem repeatUnits_of_cx_zero (unit : State → State) (n : Nat) {s : State} (h : s.get16 .cx = 0) :
    repeatUnits unit n s = s := by
  cases n with
  | zero => rfl
  | succ n => simp [repeatUnits, h]

theorem stringExec_of_not_rep {unit : State → State} {s : State} (h : s.rep = false) : stringExec unit s = unit s := by
  simp [stringExec, h]

theorem stringExec_of_cx_zero {unit : State → State} {s : State} (hr : s.rep = true) (h : s.get16 .cx = 0) :
    stringExec unit s = s := by
  simp [stringExec, hr, repeatUnits_of_cx_zero unit _ h]

/-- Under REP with CX not 0: one unit, CX down by 1, and the same again. -/
theorem stringExec_unroll {unit : State → State} {s : State} (hcx : (unit s).get16 .cx = s.get16 .cx)
    (hrep : (unit s).rep = s.rep) (hr : s.rep = true) (h : s.get16 .cx ≠ 0) :
    stringExec unit s = stringExec unit (unit s).decCx := by
  have hr2 : (unit s).decCx.rep = true := hrep.trans hr
  have hn : (s.get16 .cx).toNat = ((unit s).decCx.get16 .cx).toNat + 1 := by
    rw [decCx_cx, hcx]
    have : (s.get16 .cx).toNat ≠ 0 := fun h0 => h (BitVec.eq_of_toNat_eq h0)
    have := (s.get16 .cx).isLt
    bv_omega
  rw [stringExec, stringExec, if_pos hr, if_pos hr2, hn, repeatUnits, if_neg h]

end Sys2Proof.Machine
end

