-- ==== Sys2Proof/Tests/Slice0.lean ====
section
/-! SUPPORT. Tests: ill-formed terms are refused; each row of the opcode table decodes from bytes written out from the
spec's encoding; one-step tests whose results are the vectors of 95_test_vectors.md; and, for each obligation with
hypotheses, a concrete state and operands that meet them. -/

namespace Sys2Proof.Tests

open Sys2Proof Sys2Proof.Machine

/-! ## WellFormed -/

/-- `[BP]` without a displacement has no encoding (30_encoding.md R128). -/
theorem test_wf_refuses_bp_without_displacement :
    (Instr.movR16Rm16 .ax (.mem (.noDisp .bp))).wellFormed = false := by decide

/-- MOV CS, r/m16 is not an instruction (30_encoding.md R134). -/
theorem test_wf_refuses_mov_to_cs : (Instr.movSregRm16 .cs (.reg .ax)).wellFormed = false := by decide

/-- The displacement forms of BP and the other segment registers are instructions. -/
theorem test_wf_admits_their_neighbours :
    (Instr.movR16Rm16 .ax (.mem (.disp8 .bp 0))).wellFormed = true ∧
    (Instr.movSregRm16 .fs (.reg .ax)).wellFormed = true := by decide

/-! ## Decoding: bytes written out from 30_encoding.md R120 to R134 -/

/-- The bytes decode to exactly this instruction, with nothing left over. -/
def decodesTo (bs : List Byte) (i : Instr) : Bool :=
  match decode bs with
  | .ok (j, []) => j == i
  | _ => false

/-- ADD: opcodes 00 to 05 and /0 of 80, 81, 83. -/
theorem test_decode_add :
    decodesTo [0x00, 0xC3] (.addRm8R8 (.reg .bl) .al) = true ∧
    decodesTo [0x01, 0x07] (.addRm16R16 (.mem (.noDisp .bx)) .ax) = true ∧
    decodesTo [0x02, 0x66, 0x04] (.addR8Rm8 .ah (.mem (.disp8 .bp 4))) = true ∧
    decodesTo [0x03, 0x0E, 0x34, 0x12] (.addR16Rm16 .cx (.mem (.direct 0x1234))) = true ∧
    decodesTo [0x04, 0x50] (.addAlImm8 0x50) = true ∧
    decodesTo [0x05, 0x00, 0x80] (.addAxImm16 0x8000) = true ∧
    decodesTo [0x80, 0xC3, 0x10] (.addRm8Imm8 (.reg .bl) 0x10) = true ∧
    decodesTo [0x81, 0x87, 0x34, 0x12, 0x78, 0x56] (.addRm16Imm16 (.mem (.disp16 .bx 0x1234)) 0x5678) = true ∧
    decodesTo [0x83, 0xC1, 0xFF] (.addRm16Imm8 (.reg .cx) 0xFF) = true := by decide

/-- OR: opcodes 08 to 0D and /1 of 80, 81, 83. -/
theorem test_decode_or :
    decodesTo [0x08, 0xC3] (.orRm8R8 (.reg .bl) .al) = true ∧
    decodesTo [0x09, 0x07] (.orRm16R16 (.mem (.noDisp .bx)) .ax) = true ∧
    decodesTo [0x0A, 0x66, 0x04] (.orR8Rm8 .ah (.mem (.disp8 .bp 4))) = true ∧
    decodesTo [0x0B, 0x0E, 0x34, 0x12] (.orR16Rm16 .cx (.mem (.direct 0x1234))) = true ∧
    decodesTo [0x0C, 0x50] (.orAlImm8 0x50) = true ∧
    decodesTo [0x0D, 0x00, 0x80] (.orAxImm16 0x8000) = true ∧
    decodesTo [0x80, 0xCB, 0x10] (.orRm8Imm8 (.reg .bl) 0x10) = true ∧
    decodesTo [0x81, 0x8F, 0x34, 0x12, 0x78, 0x56] (.orRm16Imm16 (.mem (.disp16 .bx 0x1234)) 0x5678) = true ∧
    decodesTo [0x83, 0xC9, 0xFF] (.orRm16Imm8 (.reg .cx) 0xFF) = true := by decide

/-- ADC: opcodes 10 to 15 and /2 of 80, 81, 83. -/
theorem test_decode_adc :
    decodesTo [0x10, 0xC3] (.adcRm8R8 (.reg .bl) .al) = true ∧
    decodesTo [0x11, 0x07] (.adcRm16R16 (.mem (.noDisp .bx)) .ax) = true ∧
    decodesTo [0x12, 0x66, 0x04] (.adcR8Rm8 .ah (.mem (.disp8 .bp 4))) = true ∧
    decodesTo [0x13, 0x0E, 0x34, 0x12] (.adcR16Rm16 .cx (.mem (.direct 0x1234))) = true ∧
    decodesTo [0x14, 0x50] (.adcAlImm8 0x50) = true ∧
    decodesTo [0x15, 0x00, 0x80] (.adcAxImm16 0x8000) = true ∧
    decodesTo [0x80, 0xD3, 0x10] (.adcRm8Imm8 (.reg .bl) 0x10) = true ∧
    decodesTo [0x81, 0x97, 0x34, 0x12, 0x78, 0x56] (.adcRm16Imm16 (.mem (.disp16 .bx 0x1234)) 0x5678) = true ∧
    decodesTo [0x83, 0xD1, 0xFF] (.adcRm16Imm8 (.reg .cx) 0xFF) = true := by decide

/-- SBB: opcodes 18 to 1D and /3 of 80, 81, 83. -/
theorem test_decode_sbb :
    decodesTo [0x18, 0xC3] (.sbbRm8R8 (.reg .bl) .al) = true ∧
    decodesTo [0x19, 0x07] (.sbbRm16R16 (.mem (.noDisp .bx)) .ax) = true ∧
    decodesTo [0x1A, 0x66, 0x04] (.sbbR8Rm8 .ah (.mem (.disp8 .bp 4))) = true ∧
    decodesTo [0x1B, 0x0E, 0x34, 0x12] (.sbbR16Rm16 .cx (.mem (.direct 0x1234))) = true ∧
    decodesTo [0x1C, 0x50] (.sbbAlImm8 0x50) = true ∧
    decodesTo [0x1D, 0x00, 0x80] (.sbbAxImm16 0x8000) = true ∧
    decodesTo [0x80, 0xDB, 0x10] (.sbbRm8Imm8 (.reg .bl) 0x10) = true ∧
    decodesTo [0x81, 0x9F, 0x34, 0x12, 0x78, 0x56] (.sbbRm16Imm16 (.mem (.disp16 .bx 0x1234)) 0x5678) = true ∧
    decodesTo [0x83, 0xD9, 0xFF] (.sbbRm16Imm8 (.reg .cx) 0xFF) = true := by decide

/-- AND: opcodes 20 to 25 and /4 of 80, 81, 83. -/
theorem test_decode_and :
    decodesTo [0x20, 0xC3] (.andRm8R8 (.reg .bl) .al) = true ∧
    decodesTo [0x21, 0x07] (.andRm16R16 (.mem (.noDisp .bx)) .ax) = true ∧
    decodesTo [0x22, 0x66, 0x04] (.andR8Rm8 .ah (.mem (.disp8 .bp 4))) = true ∧
    decodesTo [0x23, 0x0E, 0x34, 0x12] (.andR16Rm16 .cx (.mem (.direct 0x1234))) = true ∧
    decodesTo [0x24, 0x50] (.andAlImm8 0x50) = true ∧
    decodesTo [0x25, 0x00, 0x80] (.andAxImm16 0x8000) = true ∧
    decodesTo [0x80, 0xE3, 0x10] (.andRm8Imm8 (.reg .bl) 0x10) = true ∧
    decodesTo [0x81, 0xA7, 0x34, 0x12, 0x78, 0x56] (.andRm16Imm16 (.mem (.disp16 .bx 0x1234)) 0x5678) = true ∧
    decodesTo [0x83, 0xE1, 0xFF] (.andRm16Imm8 (.reg .cx) 0xFF) = true := by decide

/-- SUB: opcodes 28 to 2D and /5 of 80, 81, 83. -/
theorem test_decode_sub :
    decodesTo [0x28, 0xC3] (.subRm8R8 (.reg .bl) .al) = true ∧
    decodesTo [0x29, 0x07] (.subRm16R16 (.mem (.noDisp .bx)) .ax) = true ∧
    decodesTo [0x2A, 0x66, 0x04] (.subR8Rm8 .ah (.mem (.disp8 .bp 4))) = true ∧
    decodesTo [0x2B, 0x0E, 0x34, 0x12] (.subR16Rm16 .cx (.mem (.direct 0x1234))) = true ∧
    decodesTo [0x2C, 0x50] (.subAlImm8 0x50) = true ∧
    decodesTo [0x2D, 0x00, 0x80] (.subAxImm16 0x8000) = true ∧
    decodesTo [0x80, 0xEB, 0x10] (.subRm8Imm8 (.reg .bl) 0x10) = true ∧
    decodesTo [0x81, 0xAF, 0x34, 0x12, 0x78, 0x56] (.subRm16Imm16 (.mem (.disp16 .bx 0x1234)) 0x5678) = true ∧
    decodesTo [0x83, 0xE9, 0xFF] (.subRm16Imm8 (.reg .cx) 0xFF) = true := by decide

/-- XOR: opcodes 30 to 35 and /6 of 80, 81, 83. -/
theorem test_decode_xor :
    decodesTo [0x30, 0xC3] (.xorRm8R8 (.reg .bl) .al) = true ∧
    decodesTo [0x31, 0x07] (.xorRm16R16 (.mem (.noDisp .bx)) .ax) = true ∧
    decodesTo [0x32, 0x66, 0x04] (.xorR8Rm8 .ah (.mem (.disp8 .bp 4))) = true ∧
    decodesTo [0x33, 0x0E, 0x34, 0x12] (.xorR16Rm16 .cx (.mem (.direct 0x1234))) = true ∧
    decodesTo [0x34, 0x50] (.xorAlImm8 0x50) = true ∧
    decodesTo [0x35, 0x00, 0x80] (.xorAxImm16 0x8000) = true ∧
    decodesTo [0x80, 0xF3, 0x10] (.xorRm8Imm8 (.reg .bl) 0x10) = true ∧
    decodesTo [0x81, 0xB7, 0x34, 0x12, 0x78, 0x56] (.xorRm16Imm16 (.mem (.disp16 .bx 0x1234)) 0x5678) = true ∧
    decodesTo [0x83, 0xF1, 0xFF] (.xorRm16Imm8 (.reg .cx) 0xFF) = true := by decide

/-- CMP: opcodes 38 to 3D and /7 of 80, 81, 83. -/
theorem test_decode_cmp :
    decodesTo [0x38, 0xC3] (.cmpRm8R8 (.reg .bl) .al) = true ∧
    decodesTo [0x39, 0x07] (.cmpRm16R16 (.mem (.noDisp .bx)) .ax) = true ∧
    decodesTo [0x3A, 0x66, 0x04] (.cmpR8Rm8 .ah (.mem (.disp8 .bp 4))) = true ∧
    decodesTo [0x3B, 0x0E, 0x34, 0x12] (.cmpR16Rm16 .cx (.mem (.direct 0x1234))) = true ∧
    decodesTo [0x3C, 0x50] (.cmpAlImm8 0x50) = true ∧
    decodesTo [0x3D, 0x00, 0x80] (.cmpAxImm16 0x8000) = true ∧
    decodesTo [0x80, 0xFB, 0x10] (.cmpRm8Imm8 (.reg .bl) 0x10) = true ∧
    decodesTo [0x81, 0xBF, 0x34, 0x12, 0x78, 0x56] (.cmpRm16Imm16 (.mem (.disp16 .bx 0x1234)) 0x5678) = true ∧
    decodesTo [0x83, 0xF9, 0xFF] (.cmpRm16Imm8 (.reg .cx) 0xFF) = true := by decide

/-- F6 /4, F7 /4, F7 /6. -/
theorem test_decode_muldiv :
    decodesTo [0xF6, 0xE4] (.mulRm8 (.reg .ah)) = true ∧
    decodesTo [0xF7, 0xE1] (.mulRm16 (.reg .cx)) = true ∧
    decodesTo [0xF7, 0x37] (.divRm16 (.mem (.noDisp .bx))) = true := by decide

/-- 88 to 8E, A0, A1. -/
theorem test_decode_move :
    decodesTo [0x88, 0xE0] (.movRm8R8 (.reg .al) .ah) = true ∧
    decodesTo [0x89, 0x07] (.movRm16R16 (.mem (.noDisp .bx)) .ax) = true ∧
    decodesTo [0x8A, 0x46, 0x04] (.movR8Rm8 .al (.mem (.disp8 .bp 4))) = true ∧
    decodesTo [0x8B, 0x1E, 0x00, 0x02] (.movR16Rm16 .bx (.mem (.direct 0x0200))) = true ∧
    decodesTo [0x8C, 0xE0] (.movRm16Sreg (.reg .ax) .fs) = true ∧
    decodesTo [0x8E, 0xD0] (.movSregRm16 .ss (.reg .ax)) = true ∧
    decodesTo [0x8D, 0x46, 0x04] (.leaR16M .ax (.disp8 .bp 4)) = true ∧
    decodesTo [0xA0, 0x00, 0x01] (.movAlMoffs8 0x0100) = true ∧
    decodesTo [0xA1, 0x00, 0x01] (.movAxMoffs16 0x0100) = true := by decide

/-- A2, A3, B0+r, B8+r, C6, C7, 90. -/
theorem test_decode_move2 :
    decodesTo [0xA2, 0x00, 0x01] (.movMoffs8Al 0x0100) = true ∧
    decodesTo [0xA3, 0x00, 0x01] (.movMoffs16Ax 0x0100) = true ∧
    decodesTo [0xB7, 0x12] (.movR8Imm8 .bh 0x12) = true ∧
    decodesTo [0xBC, 0x00, 0x04] (.movR16Imm16 .sp 0x0400) = true ∧
    decodesTo [0xC6, 0x47, 0x01, 0xAA] (.movRm8Imm8 (.mem (.disp8 .bx 1)) 0xAA) = true ∧
    decodesTo [0xC7, 0xC0, 0x34, 0x12] (.movRm16Imm16 (.reg .ax) 0x1234) = true ∧
    decodesTo [0x90] .nop = true := by decide

/-- 50+r, 58+r and the segment pushes and pops. -/
theorem test_decode_stack :
    decodesTo [0x54] (.pushR16 .sp) = true ∧
    decodesTo [0x5B] (.popR16 .bx) = true ∧
    decodesTo [0x06] .pushEs = true ∧
    decodesTo [0x0E] .pushCs = true ∧
    decodesTo [0x16] .pushSs = true ∧
    decodesTo [0x1E] .pushDs = true ∧
    decodesTo [0x07] .popEs = true ∧
    decodesTo [0x17] .popSs = true ∧
    decodesTo [0x1F] .popDs = true := by decide

/-- The jumps, calls and returns. -/
theorem test_decode_jumps :
    decodesTo [0xEB, 0xFE] (.jmpRel8 0xFE) = true ∧
    decodesTo [0xE9, 0xFF, 0xFF] (.jmpRel16 0xFFFF) = true ∧
    decodesTo [0xEA, 0x34, 0x12, 0xFF, 0xFF] (.jmpFar 0x1234 0xFFFF) = true ∧
    decodesTo [0xE8, 0xFD, 0xFE] (.callRel16 0xFEFD) = true ∧
    decodesTo [0x9A, 0x34, 0x12, 0x00, 0x30] (.callFar 0x1234 0x3000) = true ∧
    decodesTo [0xC3] .ret = true ∧
    decodesTo [0xC2, 0x04, 0x00] (.retImm16 4) = true ∧
    decodesTo [0xCB] .retf = true ∧
    decodesTo [0xCA, 0x02, 0x00] (.retfImm16 2) = true := by decide

/-- 70 to 7F, in the order of the condition table (45_control.md R394). -/
theorem test_decode_conditional_jumps :
    decodesTo [0x70, 0x04] (.joRel8 4) = true ∧
    decodesTo [0x71, 0x04] (.jnoRel8 4) = true ∧
    decodesTo [0x72, 0x04] (.jbRel8 4) = true ∧
    decodesTo [0x73, 0x04] (.jnbRel8 4) = true ∧
    decodesTo [0x74, 0x04] (.jzRel8 4) = true ∧
    decodesTo [0x75, 0x04] (.jnzRel8 4) = true ∧
    decodesTo [0x76, 0x04] (.jbeRel8 4) = true ∧
    decodesTo [0x77, 0x04] (.jaRel8 4) = true ∧
    decodesTo [0x78, 0x04] (.jsRel8 4) = true ∧
    decodesTo [0x79, 0x04] (.jnsRel8 4) = true ∧
    decodesTo [0x7A, 0x04] (.jpRel8 4) = true ∧
    decodesTo [0x7B, 0x04] (.jnpRel8 4) = true ∧
    decodesTo [0x7C, 0x04] (.jlRel8 4) = true ∧
    decodesTo [0x7D, 0x04] (.jgeRel8 4) = true ∧
    decodesTo [0x7E, 0x04] (.jleRel8 4) = true ∧
    decodesTo [0x7F, 0x04] (.jgRel8 4) = true := by decide

/-- The string, interrupt and flag-control rows. -/
theorem test_decode_strings_system :
    decodesTo [0xA4] .movsb = true ∧
    decodesTo [0xA6] .cmpsb = true ∧
    decodesTo [0xAC] .lodsb = true ∧
    decodesTo [0xCD, 0x21] (.intImm8 0x21) = true ∧
    decodesTo [0xF8] .clc = true ∧
    decodesTo [0xF9] .stc = true ∧
    decodesTo [0xF5] .cmc = true ∧
    decodesTo [0xFA] .cli = true ∧
    decodesTo [0xFB] .sti = true ∧
    decodesTo [0xFC] .cld = true ∧
    decodesTo [0xFD] .std = true := by decide

/-- The seven prefix rows (R130). -/
theorem test_decode_prefix_bytes :
    decodesTo [0x26] .esOverride = true ∧
    decodesTo [0x2E] .csOverride = true ∧
    decodesTo [0x36] .ssOverride = true ∧
    decodesTo [0x3E] .dsOverride = true ∧
    decodesTo [0x64] .fsOverride = true ∧
    decodesTo [0x65] .gsOverride = true ∧
    decodesTo [0xF3] .repPrefix = true := by decide

/-- The table numbers a two-byte pattern with the opcode in bits 15:8 (notes/assumptions/11.md): F7 /6 with modrm 31. -/
theorem test_decode_table_word : decodeTableWord 16 0xF731 = some (.divRm16 (.mem (.noDisp .bxdi))) ∧
    decodeTableWord 8 0x90 = some .nop ∧ decodeTableWord 8 0x04 = some (.addAlImm8 0) := by decide

/-- Every row of the opcode map has 16 entries, so no byte falls to a neighbour (R133). -/
theorem test_opcode_map_is_whole : opRows.map List.length = List.replicate 16 16 := by decide

/-! ## One step each -/

/-- Reset, with CS:IP = 0000:0100. -/
def at100 : State := State.reset.setIp 0x0100

/-- A byte of data placed in memory. -/
def withByte (a : Addr) (b : Byte) (s : State) : State := s.writeByte a b

/-- A word of data placed in memory. -/
def withWord (a : Addr) (v : Word) (s : State) : State := s.writeWord a v

/-- One Cycle with this code at CS:IP; `p` of the next state. -/
def runs (code : List Byte) (s : State) (p : State → Bool) : Bool :=
  match step (s.storeCode s.ip code) with
  | .next t => p t
  | _ => false

/-- `CF PF AF ZF SF OF`, as the vectors list them. -/
def six (s : State) : List Nat :=
  [Flag.CF, .PF, .AF, .ZF, .SF, .OF].map fun x => (s.flag x).toNat

/-- A primitive's result and flags, as the vectors list them. -/
def prim (op : AluOp) (w a b : Nat) (cin : Bool := false) : Nat × List Nat :=
  let r := op.prim cin (BitVec.ofNat w a) (BitVec.ofNat w b)
  (r.1.toNat, [r.2.cf, r.2.pf, r.2.af, r.2.zf, r.2.sf, r.2.ovf].map Bool.toNat)

/-- Vectors V80 to V85. -/
theorem test_add_vectors :
    prim .add 8 0xFF 0x01 = (0x00, [1, 1, 1, 1, 0, 0]) ∧
    prim .add 8 0x7F 0x01 = (0x80, [0, 0, 1, 0, 1, 1]) ∧
    prim .add 16 0xFFFF 0x0001 = (0x0000, [1, 1, 1, 1, 0, 0]) ∧
    prim .add 16 0x8000 0x8000 = (0x0000, [1, 1, 0, 1, 0, 1]) ∧
    prim .add 16 0x0005 0xFFFF = (0x0004, [1, 0, 1, 0, 0, 0]) ∧
    prim .add 16 0x1234 0x4321 = (0x5555, [0, 1, 0, 0, 0, 0]) := by decide

/-- Vectors V86 to V87. -/
theorem test_or_vectors :
    prim .or 8 0x00 0x00 = (0x00, [0, 1, 0, 1, 0, 0]) ∧
    prim .or 16 0x8000 0x0001 = (0x8001, [0, 0, 0, 0, 1, 0]) := by decide

/-- Vectors V88 to V90. -/
theorem test_adc_vectors :
    prim .adc 8 0x0F 0x01 = (0x10, [0, 0, 1, 0, 0, 0]) ∧
    prim .adc 8 0x7F 0x00 true = (0x80, [0, 0, 1, 0, 1, 1]) ∧
    prim .adc 16 0xFFFF 0xFFFF true = (0xFFFF, [1, 1, 1, 0, 1, 0]) := by decide

/-- Vectors V91 to V94. -/
theorem test_sbb_vectors :
    prim .sbb 8 0x00 0x00 = (0x00, [0, 1, 0, 1, 0, 0]) ∧
    prim .sbb 8 0x00 0x00 true = (0xFF, [1, 1, 1, 0, 1, 0]) ∧
    prim .sbb 8 0x80 0x7F true = (0x00, [0, 1, 1, 1, 0, 1]) ∧
    prim .sbb 16 0x1234 0x1234 true = (0xFFFF, [1, 1, 1, 0, 1, 0]) := by decide

/-- Vectors V95 to V96. -/
theorem test_and_vectors :
    prim .and 8 0xF0 0x0F = (0x00, [0, 1, 0, 1, 0, 0]) ∧
    prim .and 16 0xFFFF 0x8080 = (0x8080, [0, 0, 0, 0, 1, 0]) := by decide

/-- Vectors V97 to V99. -/
theorem test_sub_vectors :
    prim .sub 8 0x05 0x05 = (0x00, [0, 1, 0, 1, 0, 0]) ∧
    prim .sub 16 0x8000 0x0001 = (0x7FFF, [0, 1, 1, 0, 0, 1]) ∧
    prim .sub 16 0x0000 0x8000 = (0x8000, [1, 1, 0, 0, 1, 1]) := by decide

/-- Vectors V100 to V101. -/
theorem test_xor_vectors :
    prim .xor 8 0xAA 0x55 = (0xFF, [0, 1, 0, 0, 1, 0]) ∧
    prim .xor 16 0x1234 0x1234 = (0x0000, [0, 1, 0, 1, 0, 0]) := by decide

/-- Vectors V102 to V104. -/
theorem test_cmp_vectors :
    prim .cmp 8 0x05 0x05 = (0x00, [0, 1, 0, 1, 0, 0]) ∧
    prim .cmp 16 0x7FFF 0x8000 = (0xFFFF, [1, 1, 0, 0, 1, 1]) ∧
    prim .cmp 8 0x80 0x01 = (0x7F, [0, 0, 1, 0, 0, 1]) := by decide

/-- V3: `04 50`. -/
theorem test_add_al_imm8 : runs [0x04, 0x50] (at100.set8 .al 0x50)
    (fun t => t.get8 .al == 0xA0 && six t == [0, 1, 0, 0, 1, 1] && t.ip == 0x0102) = true := by decide

/-- V4: `2C 01`. -/
theorem test_sub_al_imm8 : runs [0x2C, 0x01] at100
    (fun t => t.get8 .al == 0xFF && six t == [1, 1, 1, 0, 1, 0]) = true := by decide

/-- V105: CMP writes no memory. -/
theorem test_cmp_rm8_imm8 : runs [0x80, 0x3F, 0x10] (withByte 0x300 0x10 (at100.set16 .bx 0x0300))
    (fun t => t.flag .ZF && t.readByte 0x300 == 0x10) = true := by decide

/-- V106: ADD WORD PTR [BX], 1. -/
theorem test_add_rm16_imm8 : runs [0x83, 0x07, 0x01] (withWord 0x300 0x00FF (at100.set16 .bx 0x0300))
    (fun t => t.readByte 0x300 == 0x00 && t.readByte 0x301 == 0x01 && !t.flag .CF && !t.flag .ZF && t.flag .AF &&
      t.flag .PF) = true := by decide

/-- V107: source and destination the same register. -/
theorem test_sub_rm16_r16 : runs [0x29, 0xC0] (at100.set16 .ax 0x1234)
    (fun t => t.get16 .ax == 0 && six t == [0, 1, 0, 1, 0, 0]) = true := by decide

/-- V108, V109: the direction bit. -/
theorem test_add_direction :
    runs [0x02, 0xC3] ((at100.set8 .al 0x12).set8 .bl 0x34) (fun t => t.get8 .al == 0x46 && t.get8 .bl == 0x34) = true ∧
    runs [0x00, 0xC3] ((at100.set8 .al 0x12).set8 .bl 0x34) (fun t => t.get8 .bl == 0x46 && t.get8 .al == 0x12) = true := by
  decide

/-- V110: ADC AL, 1 with a carry in. -/
theorem test_adc_al_imm8 : runs [0x14, 0x01] ((at100.set16 .ax 0x00FF).setFlag .CF true)
    (fun t => t.get16 .ax == 0x0001 && t.flag .CF && t.flag .AF) = true := by decide

/-- V111: bits 31:16 of the slot are kept. -/
theorem test_add_ax_imm16 : runs [0x05, 0xFF, 0xFF] { at100 with regs := at100.regs.set .ax 0xABCD0001 }
    (fun t => t.regs.get .ax == 0xABCD0000 && t.flag .CF && t.flag .ZF) = true := by decide

/-- V68: a six-byte instruction. -/
theorem test_add_rm16_imm16 : runs [0x81, 0x87, 0x34, 0x12, 0x78, 0x56] (withWord 0x1234 0x1111 at100)
    (fun t => t.readWord 0x1234 == 0x6789 && t.ip == 0x0106) = true := by decide

/-- V120, V123: MUL BL, MUL AH. -/
theorem test_mul_rm8 :
    runs [0xF6, 0xE3] ((at100.set8 .al 0xFF).set8 .bl 0xFF)
      (fun t => t.get16 .ax == 0xFE01 && t.flag .CF && t.flag .OF) = true ∧
    runs [0xF6, 0xE4] (at100.set16 .ax 0x0302) (fun t => t.get16 .ax == 0x0006) = true := by decide

/-- V122: MUL leaves ZF, PF, AF and SF as they were. -/
theorem test_mul_rm8_flags : runs [0xF6, 0xE3] (at100.set8 .bl 0x55)
    (fun t => t.get16 .ax == 0 && six t == [0, 0, 0, 1, 0, 0]) = true := by decide

/-- V124, V126: MUL CX, MUL DX. -/
theorem test_mul_rm16 :
    runs [0xF7, 0xE1] ((at100.set16 .ax 0xFFFF).set16 .cx 0xFFFF)
      (fun t => t.get16 .dx == 0xFFFE && t.get16 .ax == 0x0001 && t.flag .CF && t.flag .OF) = true ∧
    runs [0xF7, 0xE2] ((at100.set16 .ax 2).set16 .dx 3) (fun t => t.get16 .ax == 6 && t.get16 .dx == 0) = true := by
  decide

/-- V128, V133: the largest quotient; a divisor in memory. -/
theorem test_div_rm16 :
    runs [0xF7, 0xF1] (((at100.set16 .dx 0xFFFE).set16 .ax 0xFFFF).set16 .cx 0xFFFF)
      (fun t => t.get16 .ax == 0xFFFF && t.get16 .dx == 0xFFFE && t.trace.map TraceRecord.event == some .retired) = true ∧
    runs [0xF7, 0x37] (withWord 0x400 0x000A ((at100.set16 .bx 0x0400).set16 .ax 0x0064))
      (fun t => t.get16 .ax == 0x000A && t.get16 .dx == 0) = true := by decide

/-- V129: a quotient that does not fit signals Interrupt(0); what the handler leaves is free, the outcome is not. -/
theorem test_div_fault : runs [0xF7, 0xF1] ((at100.set16 .dx 1).set16 .cx 1)
    (fun t => t.draws == 1 && !t.inh && t.trace.map TraceRecord.event == some (.interrupt 0)) = true := by decide

/-- V142: MOV AL, AH. -/
theorem test_mov_rm8_r8 : runs [0x88, 0xE0] (at100.set16 .ax 0x12FF) (fun t => t.get16 .ax == 0x1212) = true := by decide

/-- V147: the second byte at offset 0x10000. -/
theorem test_mov_rm16_r16 : runs [0x89, 0x07] ((at100.set16 .bx 0xFFFF).set16 .ax 0xA1B2)
    (fun t => t.readByte 0xFFFF == 0xB2 && t.readByte 0x10000 == 0xA1) = true := by decide

/-- V5: `[BP+4]` is in SS; ADS is DS again after the Cycle. -/
theorem test_mov_r8_rm8 :
    runs [0x8A, 0x46, 0x04] (withByte 0x20104 0x77 (((at100.loadSeg .ss 0x2000).loadSeg .ds 0x3000).set16 .bp 0x0100))
      (fun t => t.get8 .al == 0x77 && t.ads == .ds && !t.ovr) = true := by decide

/-- V219: the address uses the old BX. -/
theorem test_mov_r16_rm16 : runs [0x8B, 0x1F] (withWord 0x200 0x0300 (at100.set16 .bx 0x0200))
    (fun t => t.get16 .bx == 0x0300) = true := by decide

/-- The common state of vectors V30 to V47. -/
def eaState : State :=
  ((((at100.set16 .bx 0x1000).set16 .si 0x0010).set16 .di 0x0020).set16 .bp 0x2000).loadSeg .ds 0x0100 |>.loadSeg .ss 0x0200

/-- The linear address of a memory operand in the common state. -/
def ea (m : MemForm) : Nat := (eaState.memAddr m).toNat

/-- V30 to V42. -/
theorem test_effective_addresses :
    [ea (.noDisp .bxsi), ea (.noDisp .bxdi), ea (.noDisp .bpsi), ea (.noDisp .bpdi), ea (.noDisp .si), ea (.noDisp .di),
      ea (.direct 0x1234), ea (.noDisp .bx), ea (.disp8 .bp 0xFF), ea (.disp16 .bp 0x8000), ea (.disp8 .bxsi 0xF0),
      ea (.disp8 .bx 0x7F), ea (.disp16 .bx 0xFFFF)] =
    [0x2010, 0x2020, 0x4010, 0x4020, 0x1010, 0x1020, 0x2234, 0x2000, 0x3FFF, 0xC000, 0x2000, 0x207F, 0x1FFF] := by decide

/-- V43 to V46: an override beats SS, and the last override wins. -/
theorem test_overrides :
    runs [0x26, 0x8B, 0x46, 0x00] (withWord 0x2000 0xBEEF eaState) (fun t => t.get16 .ax == 0xBEEF) = true ∧
    runs [0x3E, 0x8B, 0x02] (withWord 0x3010 0xBEEF eaState) (fun t => t.get16 .ax == 0xBEEF) = true ∧
    runs [0x36, 0x8B, 0x07] (withWord 0x3000 0xBEEF eaState) (fun t => t.get16 .ax == 0xBEEF) = true ∧
    runs [0x26, 0x2E, 0x8B, 0x07] (withWord 0x1000 0xBEEF eaState) (fun t => t.get16 .ax == 0xBEEF) = true := by decide

/-- FS and GS overrides reach their segment (30_encoding.md R130). -/
theorem test_fs_gs_overrides :
    runs [0x64, 0x8B, 0x07] (withWord 0x51000 0xBEEF (eaState.loadSeg .fs 0x5000)) (fun t => t.get16 .ax == 0xBEEF) = true ∧
    runs [0x65, 0x8B, 0x07] (withWord 0x61000 0xBEEF (eaState.loadSeg .gs 0x6000)) (fun t => t.get16 .ax == 0xBEEF) = true := by
  decide

/-- V144: MOV AX, FS. -/
theorem test_mov_rm16_sreg : runs [0x8C, 0xE0] (at100.loadSeg .fs 0x4000) (fun t => t.get16 .ax == 0x4000) = true := by
  decide

/-- V145: MOV FS, AX. -/
theorem test_mov_sreg_rm16 : runs [0x8E, 0xE0] (at100.set16 .ax 0x4000)
    (fun t => (t.segs.get .fs).sel == 0x4000 && (t.segs.get .fs).base == 0x40000) = true := by decide

/-- V148, V149: LEA. -/
theorem test_lea :
    runs [0x8D, 0x46, 0x04] ((at100.loadSeg .ss 0x2000).set16 .bp 0x0010) (fun t => t.get16 .ax == 0x0014) = true ∧
    runs [0x8D, 0x47, 0x02] (at100.set16 .bx 0xFFFF) (fun t => t.get16 .ax == 0x0001) = true := by decide

/-- V150 and V143: MOV AL, moffs8 under an override. -/
theorem test_mov_al_moffs8 :
    runs [0x26, 0xA0, 0x00, 0x01] (withByte 0x10100 0x66 (at100.loadSeg .es 0x1000)) (fun t => t.get8 .al == 0x66) = true ∧
    runs [0x2E, 0xA0, 0x00, 0x00] (withByte 0 0xB8 at100) (fun t => t.get8 .al == 0xB8) = true := by decide

/-- 43_move.md R327 to R329: the other moffs forms, by hand. -/
theorem test_moffs :
    runs [0xA1, 0x00, 0x03] (withWord 0x300 0x1234 at100) (fun t => t.get16 .ax == 0x1234) = true ∧
    runs [0xA2, 0x00, 0x03] (at100.set16 .ax 0x5678) (fun t => t.readWord 0x300 == 0x0078) = true ∧
    runs [0xA3, 0x00, 0x03] (at100.set16 .ax 0x5678) (fun t => t.readWord 0x300 == 0x5678) = true := by decide

/-- V140, V141: the rest of the slot is kept. -/
theorem test_mov_imm :
    runs [0xB0, 0x12] { at100 with regs := at100.regs.set .ax 0xFFFFFFFF } (fun t => t.regs.get .ax == 0xFFFFFF12) = true ∧
    runs [0xB8, 0x34, 0x12] { at100 with regs := at100.regs.set .ax 0xFFFFFFFF }
      (fun t => t.regs.get .ax == 0xFFFF1234) = true := by decide

/-- V151. -/
theorem test_mov_rm8_imm8 : runs [0xC6, 0x47, 0x01, 0xAA] (at100.set16 .bx 0x0200)
    (fun t => t.readByte 0x201 == 0xAA && t.readByte 0x202 == 0) = true := by decide

/-- 43_move.md R333, by hand. -/
theorem test_mov_rm16_imm16 : runs [0xC7, 0x07, 0xCD, 0xAB] (at100.set16 .bx 0x0200)
    (fun t => t.readByte 0x200 == 0xCD && t.readByte 0x201 == 0xAB) = true := by decide

/-- V152: prefixes before NOP. -/
theorem test_nop : runs [0x2E, 0xF3, 0x90] at100 (fun t => t.ip == 0x0103 && t.flags == 0x0240 && !t.rep) = true := by
  decide

/-- V160, V161: PUSH AX at SP = 0; PUSH SP. -/
theorem test_push_r16 :
    runs [0x50] (at100.set16 .ax 0xBEEF)
      (fun t => t.get16 .sp == 0xFFFE && t.readByte 0xFFFE == 0xEF && t.readByte 0xFFFF == 0xBE) = true ∧
    runs [0x54] ((at100.setIp 0x500).set16 .sp 0x0100) (fun t => t.get16 .sp == 0x00FE && t.readWord 0x00FE == 0x0100) = true := by
  decide

/-- V162, V163: POP SP; POP AX across offset 0xFFFF. -/
theorem test_pop_r16 :
    runs [0x5C] (withWord 0x100 0x1234 ((at100.setIp 0x500).set16 .sp 0x0100)) (fun t => t.get16 .sp == 0x1234) = true ∧
    runs [0x58] (withWord 0xFFFF 0x1234 (at100.set16 .sp 0xFFFF))
      (fun t => t.get16 .ax == 0x1234 && t.get16 .sp == 0x0001) = true := by decide

/-- V164, V166 and 44_stack.md R365, R367: each segment push stores its own selector. -/
theorem test_push_segments :
    runs [0x06] ((at100.loadSeg .es 0x2345).set16 .sp 0x10) (fun t => t.readWord 0xE == 0x2345) = true ∧
    runs [0x0E] ((at100.loadSeg .cs 0x0070).set16 .sp 0x10) (fun t => t.readWord 0xE == 0x0070) = true ∧
    runs [0x16] ((at100.loadSeg .ss 0x1000).set16 .sp 0x10) (fun t => t.readWord 0x1000E == 0x1000) = true ∧
    runs [0x1E] (((at100.loadSeg .ss 0x1000).loadSeg .ds 0x2345).set16 .sp 0x10)
      (fun t => t.readWord 0x1000E == 0x2345 && t.get16 .sp == 0x000E) = true := by decide

/-- V164 to V166: each segment pop loads its own selector, with the base. -/
theorem test_pop_segments :
    runs [0x07] (withWord 0x1000E 0x2345 ((at100.loadSeg .ss 0x1000).set16 .sp 0x000E))
      (fun t => (t.segs.get .es).sel == 0x2345 && (t.segs.get .es).base == 0x23450 && t.get16 .sp == 0x0010) = true ∧
    runs [0x17] (withWord 0x200 0x3000 (at100.set16 .sp 0x0200)) (fun t => (t.segs.get .ss).base == 0x30000) = true ∧
    runs [0x1F] (withWord 0x200 0x0070 (at100.set16 .sp 0x0200)) (fun t => (t.segs.get .ds).sel == 0x0070) = true := by
  decide

/-- V170 to V173: the relative jumps, wrapping mod 2^16. -/
theorem test_jmp_rel :
    runs [0xEB, 0xFE] at100 (fun t => t.ip == 0x0100) = true ∧
    runs [0xE9, 0xFF, 0xFF] at100 (fun t => t.ip == 0x0102) = true ∧
    runs [0xEB, 0x20] (at100.setIp 0xFFF0) (fun t => t.ip == 0x0012) = true ∧
    runs [0xEB, 0x00] (at100.setIp 0xFFFE) (fun t => t.ip == 0x0000) = true := by decide

/-- V185: JMP ptr16:16. -/
theorem test_jmp_far : runs [0xEA, 0x00, 0x00, 0xFF, 0xFF] (at100.loadSeg .cs 0x1000)
    (fun t => (t.segs.get .cs).sel == 0xFFFF && t.segAddr .cs t.ip == 0xFFFF0 && t.ip == 0) = true := by decide

/-- The conditions taken in a state, in the order of the opcodes 70 to 7F. -/
def takenIn (flags : DWord) : List Nat :=
  (List.range 16).filter fun c =>
    runs [BitVec.ofNat 8 (0x70 + c), 0x04] { at100 with flags := flags } (fun t => t.ip == 0x0106)

/-- V179. -/
theorem test_conditions_flags_clear : takenIn 0 = [1, 3, 5, 7, 9, 0xB, 0xD, 0xF] := by decide

/-- V180. -/
theorem test_conditions_flags_set : takenIn 0x08C5 = [0, 2, 4, 6, 8, 0xA, 0xD, 0xE] := by decide

/-- V174 to V176: JL taken, JB not, JA taken on SF 0, OF 1, CF 0, ZF 0. -/
theorem test_conditions_signed : takenIn 0x0800 = [0, 3, 5, 7, 9, 0xB, 0xC, 0xE] := by decide

/-- V181, V182: CALL rel16. -/
theorem test_call_rel16 :
    runs [0xE8, 0x00, 0x00] (at100.set16 .sp 0x0200)
      (fun t => t.readWord 0x01FE == 0x0103 && t.ip == 0x0103 && t.get16 .sp == 0x01FE) = true ∧
    runs [0xE8, 0xFD, 0xFE] (at100.set16 .sp 0x0200) (fun t => t.ip == 0x0000) = true := by decide

/-- V186, first half: CALL ptr16:16 pushes CS, then IP. -/
theorem test_call_far : runs [0x9A, 0x34, 0x12, 0x00, 0x30] ((at100.loadSeg .cs 0x1000).set16 .sp 0x0200)
    (fun t => t.readWord 0x01FE == 0x1000 && t.readWord 0x01FC == 0x0105 && (t.segs.get .cs).base == 0x30000 &&
      t.ip == 0x1234) = true := by decide

/-- V183, V184: RET, RET imm16. -/
theorem test_ret :
    runs [0xC3] (withWord 0x01FE 0x0103 (at100.set16 .sp 0x01FE)) (fun t => t.ip == 0x0103 && t.get16 .sp == 0x0200) = true ∧
    runs [0xC2, 0x04, 0x00] (withWord 0xFFFC 0x0103 (at100.set16 .sp 0xFFFC))
      (fun t => t.ip == 0x0103 && t.get16 .sp == 0x0002) = true := by decide

/-- V186, second half, and P3 step 8: RETF, RETF imm16. -/
theorem test_retf :
    runs [0xCB] (withWord 0x01FC 0x0105 (withWord 0x01FE 0x1000 (at100.set16 .sp 0x01FC)))
      (fun t => (t.segs.get .cs).sel == 0x1000 && t.ip == 0x0105 && t.get16 .sp == 0x0200) = true ∧
    runs [0xCA, 0x02, 0x00] (withWord 0x03FA 0x000C (((at100.loadSeg .cs 0x0050).setIp 9).set16 .sp 0x03FA))
      (fun t => (t.segs.get .cs).sel == 0 && t.ip == 0x000C && t.get16 .sp == 0x0400) = true := by decide

/-- Index and count registers. -/
def strState (cx si di : Word) : State := ((at100.setIp 0x800).set16 .cx cx).set16 .si si |>.set16 .di di

/-- V7, both directions. -/
theorem test_rep_movsb :
    runs [0xF3, 0xA4] (withByte 0x102 0x33 (withWord 0x100 0x2211 (strState 3 0x0100 0x0200)))
      (fun t => [t.readByte 0x200, t.readByte 0x201, t.readByte 0x202] == [0x11, 0x22, 0x33] && t.get16 .si == 0x0103 &&
        t.get16 .di == 0x0203 && t.get16 .cx == 0) = true ∧
    runs [0xF3, 0xA4] (withByte 0x102 0x33 (withWord 0x100 0x2211 ((strState 3 0x0102 0x0202).setFlag .DF true)))
      (fun t => [t.readByte 0x200, t.readByte 0x201, t.readByte 0x202] == [0x11, 0x22, 0x33] && t.get16 .si == 0x00FF &&
        t.get16 .di == 0x01FF && t.get16 .cx == 0) = true := by decide

/-- V191, V199: one unit without REP; an overlapping copy. -/
theorem test_movsb :
    runs [0xA4] (strState 5 0x0100 0x0200)
      (fun t => t.get16 .cx == 5 && t.get16 .si == 0x0101 && t.get16 .di == 0x0201) = true ∧
    runs [0xF3, 0xA4] (withByte 0x100 0x5A (strState 2 0x0100 0x0101))
      (fun t => t.readByte 0x101 == 0x5A && t.readByte 0x102 == 0x5A) = true := by decide

/-- V195: an override changes the source side alone. -/
theorem test_movsb_override : runs [0x26, 0xA4] (withByte 0x10010 0x77 ((strState 0 0x0010 0x0020).loadSeg .es 0x1000))
    (fun t => t.readByte 0x10020 == 0x77) = true := by decide

/-- V192, V193: REP CMPSB runs to the end and leaves the flags of the last unit. -/
theorem test_rep_cmpsb :
    runs [0xF3, 0xA6]
      (withByte 0x202 0x03 (withWord 0x200 0x0209 (withByte 0x102 0x03 (withWord 0x100 0x0201 (strState 3 0x0100 0x0200)))))
      (fun t => t.get16 .cx == 0 && t.flag .ZF && !t.flag .CF && t.get16 .si == 0x0103 && t.get16 .di == 0x0203) = true ∧
    runs [0xF3, 0xA6]
      (withByte 0x202 0x09 (withWord 0x200 0x0201 (withByte 0x102 0x03 (withWord 0x100 0x0201 (strState 3 0x0100 0x0200)))))
      (fun t => t.get16 .cx == 0 && six t == [1, 1, 1, 0, 1, 0]) = true := by decide

/-- V190, V194: REP with CX = 0. -/
theorem test_rep_count_zero : runs [0xF3, 0xA6] (strState 0 0x0100 0x0200)
    (fun t => t.flags == 0x0240 && t.get16 .si == 0x0100 && t.get16 .di == 0x0200 && t.ip == 0x0802) = true := by decide

/-- V197, V198: LODSB. -/
theorem test_lodsb :
    runs [0xF3, 0xAC] (withByte 0x102 0x0C (withWord 0x100 0x0B0A (strState 3 0x0100 0x0555)))
      (fun t => t.get8 .al == 0x0C && t.get16 .si == 0x0103 && t.get16 .di == 0x0555 && t.get16 .cx == 0) = true ∧
    runs [0xAC] (withByte 0xFFFF 0x42 (strState 0 0xFFFF 0)) (fun t => t.get8 .al == 0x42 && t.get16 .si == 0) = true := by
  decide

/-- V205: the outcome of INT; what the handler leaves is free. -/
theorem test_int : runs [0xCD, 0x03] at100
    (fun t => t.draws == 1 && !t.inh && t.trace.map TraceRecord.event == some (.interrupt 3)) = true := by decide

/-- V26: reserved bits are preserved. -/
theorem test_clc : runs [0xF8] { at100 with flags := 0xFFFFFFFF } (fun t => t.flags == 0xFFFFFFFE) = true := by decide

/-- V209: STC, CMC. -/
theorem test_stc_cmc :
    runs [0xF9] at100 (fun t => t.flags == 0x0241) = true ∧ runs [0xF5] at100 (fun t => t.flags == 0x0241) = true ∧
    runs [0xF5] (at100.setFlag .CF true) (fun t => t.flags == 0x0240) = true := by decide

/-- V211 and 47_system.md R465: CLI, STI. -/
theorem test_cli_sti :
    runs [0xFA] at100 (fun t => t.flags == 0x0040) = true ∧
    runs [0xFB] { at100 with flags := 0x0040 } (fun t => t.flags == 0x0240) = true := by decide

/-- V210: STD, CLD. -/
theorem test_std_cld :
    runs [0xFD] at100 (fun t => t.flags == 0x0640) = true ∧
    runs [0xFC] { at100 with flags := 0x0640 } (fun t => t.flags == 0x0240) = true := by decide

/-! ## Decode failure, host access -/

/-- The bytes IllegalOpcode records, if the Cycle returns it as the fault and only latches it. -/
def failsWith (code : List Byte) : Option (List Byte) :=
  let s := at100.storeCode at100.ip code
  match step s, cycle s with
  | .fault (.illegalOpcode f), .next (.faulted g, t) =>
    if f = g ∧ t = { s with fault := some f, trace := t.trace } ∧ f.ip = 0x0100 then some f.bytes else none
  | _, _ => none

/-- V8, V58 to V67: what was fetched when the failure is found; the last two, by hand, after prefix bytes. -/
theorem test_decode_failures :
    [[0xD6], [0xF0, 0x90], [0xF2, 0xA6], [0x66, 0xB8], [0x0F], [0xF6, 0xF3], [0xF7, 0xD8], [0x8E, 0xC8], [0x8C, 0xF0],
      [0x8D, 0xC0], [0xC6, 0xC8, 0x05], [0x26, 0xF3, 0xF0, 0x90], [0x2E, 0x8E, 0xC8]].map failsWith =
    [some [0xD6], some [0xF0], some [0xF2], some [0x66], some [0x0F], some [0xF6, 0xF3], some [0xF7, 0xD8],
      some [0x8E, 0xC8], some [0x8C, 0xF0], some [0x8D, 0xC0], some [0xC6, 0xC8],
      some [0x26, 0xF3, 0xF0], some [0x2E, 0x8E, 0xC8]] := by decide

/-- V56: 15 prefix bytes and NOP. -/
theorem test_fifteen_prefix_bytes :
    prefixLoop listFetcher Config.prefixLimit ⟨List.replicate 15 0x3E ++ [0x90], []⟩ =
      .ok (List.replicate 15 .dsOverride) .nop ⟨[], List.replicate 15 0x3E ++ [0x90]⟩ := by decide

/-- V57: 16 prefix bytes. -/
theorem test_sixteen_prefix_bytes :
    prefixLoop listFetcher Config.prefixLimit ⟨List.replicate 16 0x3E ++ [0x90], []⟩ =
      .illegal ⟨[0x90], List.replicate 16 0x3E⟩ := by decide

/-- V71, V220: a latched fault stops the Cycle; a Cycle during the handler is refused. -/
theorem test_latched_and_inhibited :
    step { at100 with fault := some { cs := 0, ip := 0x0100, bytes := [0xD6] } } =
      .fault (.illegalOpcode { cs := 0, ip := 0x0100, bytes := [0xD6] }) ∧
    step { at100 with inh := true } = .refused .cycleInHandler := ⟨rfl, rfl⟩

/-- V1, V20 to V22, V25, V27. -/
theorem test_host_access :
    (RegFile.r16 (State.reset.regs.set .ax 0x12345678) .ax, RegFile.r8l (State.reset.regs.set .ax 0x12345678) .ax,
      RegFile.r8h (State.reset.regs.set .ax 0x12345678) .ax) = (0x5678, 0x78, 0x56) ∧
    ((State.reset.regs.set .bx 0xFFFFFFFF).setR16 .bx 0xBEEF).get .bx = 0xFFFFBEEF ∧
    (State.reset.regs.setR8H .cx 0xAB).get .cx = 0x0000AB00 ∧
    (State.reset.hostSetIopl 3).flags = 0x3240 ∧
    ((State.reset.hostSetSeg .gs 0xFFFF).segs.get .gs).base = 0xFFFF0 := by decide

/-- V23: a view that does not exist. -/
theorem test_host_access_to_a_missing_view :
    State.reset.hostGetReg .sp .high8 = .refused (.invalidOperand .sp .high8) ∧
    State.reset.hostSetReg .ip .high8 1 = .refused (.invalidOperand .ip .high8) := ⟨rfl, rfl⟩

/-- A platform that substitutes a device at linear addresses 0x300 and 0x301 (20_memory.md R80). -/
def platform : State := at100.onBus { ram := [], devices := [{ first := 0x300, last := 0x301 }], log := [] }

/-- What an operation was and where, without its value. -/
def busShape : BusOp → Nat × Nat
  | .readByte a => (0, a.toNat)
  | .readWord a => (1, a.toNat)
  | .writeByte a _ => (2, a.toNat)
  | .writeWord a _ => (3, a.toNat)

/-- 20_memory.md R82, R83, 41_alu.md R256: ADD WORD PTR [BX], 1 at a device is one word read and one word write, and no
byte of plain memory changes; fetching from plain memory is no device operation. -/
theorem test_device_sees_one_read_and_one_write : runs [0x83, 0x07, 0x01] (platform.set16 .bx 0x0300)
    (fun t => t.bus.log.map busShape == [(1, 0x300), (3, 0x300)] && t.bus.ram.map Prod.fst == [0x100, 0x101, 0x102]) = true := by
  decide

/-- LEA and CALL do not read a device; a push to one writes it (44_stack.md R360). -/
theorem test_device_stack_and_lea :
    runs [0x8D, 0x07] (platform.set16 .bx 0x0300) (fun t => t.bus.log == []) = true ∧
    runs [0x50] ((platform.set16 .ax 0x1234).set16 .sp 0x0302)
      (fun t => t.bus.log == [.writeWord 0x300 0x1234]) = true := by decide

/-- A word field at offset 0xFFFF: its second byte is at base + 0x10000, and the next offset is 1 (40_cycle.md R203). -/
theorem test_fetch_word_at_the_end_of_the_segment : runs [0xB8, 0x34, 0x12] (at100.setIp 0xFFFE)
    (fun t => t.get16 .ax == 0x1234 && t.ip == 0x0001) = true := by decide

/-! ## For each statement with hypotheses, a state and operands that meet them -/

/-- Reset with NOP at CS:IP. -/
def nopState : State := State.reset.storeCode 0 [0x90]

/-- What one Cycle answers for NOP at reset. -/
def afterNop : State := { nopState.setIp 1 with
  trace := some { cs := 0, ip := 0, bytes := [0x90], instr := some .nop, operands := [], event := .retired } }

/-- Reset with a byte at CS:IP that no row admits. -/
def badState : State := State.reset.storeCode 0 [0xF0]

theorem nopState_steps : step nopState = .next afterNop := rfl

theorem nopState_inv : Machine.Inv nopState :=
  ⟨by decide, fun r => by cases r <;> rfl, ⟨rfl, rfl, rfl, rfl, rfl⟩⟩

theorem witness_ResetSetsEveryPieceOfState :
    (State.reset = State.reset.onBus State.reset.bus ∨ (State.reset = nopState.hostReset ∧ State.reset.bus = nopState.bus)) ∧
    (nopState.hostReset = State.reset.onBus nopState.bus ∨ (nopState.hostReset = nopState.hostReset ∧ nopState.bus = nopState.bus)) :=
  ⟨.inl rfl, .inr ⟨rfl, rfl⟩⟩

theorem witness_ResetMeetsTheInvariant : Memory.wf nopState.bus.ram ∧ Memory.wf platform.bus.ram := by decide

/-- The state a Cycle leaves that meets that byte. -/
def afterBad : State := { badState with
  fault := some { cs := 0, ip := 0, bytes := [0xF0] }
  trace := some { cs := 0, ip := 0, bytes := [0xF0], instr := none, operands := [], event := .faulted { cs := 0, ip := 0, bytes := [0xF0] } } }

theorem badState_cycles : cycle badState = .next (.faulted { cs := 0, ip := 0, bytes := [0xF0] }, afterBad) := rfl

theorem witness_EveryCycleKeepsTheInvariant : Machine.Inv nopState ∧ step nopState = .next afterNop ∧
    cycle nopState = .next (.retired, afterNop) ∧ Machine.Inv badState ∧
    cycle badState = .next (.faulted { cs := 0, ip := 0, bytes := [0xF0] }, afterBad) :=
  ⟨nopState_inv, nopState_steps, rfl, ⟨by decide, fun r => by cases r <;> rfl, ⟨rfl, rfl, rfl, rfl, rfl⟩⟩, badState_cycles⟩

theorem witness_EveryCycleEndsAtAnInstructionBoundary : step nopState = .next afterNop ∧ badState.fault = none ∧
    cycle badState = .next (.faulted { cs := 0, ip := 0, bytes := [0xF0] }, afterBad) :=
  ⟨nopState_steps, rfl, badState_cycles⟩

theorem witness_EveryReadyCycleCompletes : nopState.ready ∧ ∀ c, nopState.fetchCycle ≠ .illegal c :=
  ⟨⟨rfl, rfl⟩, fun _ h => nomatch (show Fetched.ok [] Instr.nop _ = _ from h)⟩

/-- Two prefixes and MOV AX, 0x1234; the execute phase begins at the state below. -/
def codeState : State := at100.storeCode 0x0100 [0x26, 0xF3, 0xB8, 0x34, 0x12]

/-- Its prefixes. -/
def twoPrefixes : List Instr := [.esOverride, .repPrefix]

/-- Its instruction. -/
def movAx : Instr := .movR16Imm16 .ax 0x1234

theorem witness_StepRunsTheDecodedInstruction :
    codeState.ready ∧ (∀ p ∈ twoPrefixes, p.isPrefix = true) ∧ twoPrefixes.length ≤ 15 ∧ movAx.isPrefix = false ∧
    movAx.wellFormed = true ∧ codeState.holdsCode codeState.ip ((twoPrefixes ++ [movAx]).flatMap encodeFields) ∧
    ∃ atExec t,
      runPrefixes twoPrefixes ((codeState.readCode codeState.ip ((twoPrefixes ++ [movAx]).flatMap encodeFields)).setIp
        (codeState.ip + BitVec.ofNat 16 ((twoPrefixes ++ [movAx]).flatMap encode).length)) = .next atExec ∧
      exec movAx atExec = .next t :=
  ⟨⟨rfl, rfl⟩, by decide, by decide, rfl, rfl, ⟨rfl, rfl, rfl, rfl, trivial⟩, _, _, rfl, rfl⟩

/-- The boundary: no prefix, and a word field fetched at IP = 0xFFFF. -/
theorem witness_StepRunsTheDecodedInstruction_end_of_segment :
    let s := (at100.setIp 0xFFFE).storeCode 0xFFFE [0xB8, 0x34, 0x12]
    s.ready ∧ s.holdsCode s.ip ((([] : List Instr) ++ [movAx]).flatMap encodeFields) ∧
    ∃ atExec t,
      runPrefixes [] ((s.readCode s.ip ((([] : List Instr) ++ [movAx]).flatMap encodeFields)).setIp
        (s.ip + BitVec.ofNat 16 ((([] : List Instr) ++ [movAx]).flatMap encode).length)) = .next atExec ∧ exec movAx atExec = .next t :=
  ⟨⟨rfl, rfl⟩, ⟨rfl, rfl, trivial⟩, _, _, rfl, rfl⟩

theorem witness_PrefixesSetTheSegmentAndTheRepeatFlag :
    ∀ p ∈ [Instr.esOverride, .repPrefix, .csOverride], p.isPrefix = true := by decide

theorem witness_DecodeFailureChangesNoArchitecturalState :
    badState.ready ∧ badState.fetchCycle = .illegal { pos := { ip := 1, bus := badState.bus }, seen := [0xF0] } :=
  ⟨⟨rfl, rfl⟩, rfl⟩

/-- The byte first, and after fifteen prefix bytes. -/
theorem witness_UnadmittedOpcodesRaiseIllegalOpcode :
    badState.ready ∧ badState.holdsCode badState.ip (([] : List Instr).flatMap encodeFields ++ [.byte 0xF0]) ∧
    (let s := State.reset.storeCode 0 (List.replicate 15 0x3E ++ [0xF0])
     let ps : List Instr := List.replicate 15 .dsOverride
     s.ready ∧ (∀ p ∈ ps, p.isPrefix = true) ∧ ps.length ≤ 15 ∧ s.holdsCode s.ip (ps.flatMap encodeFields ++ [.byte 0xF0])) ∧
    unadmitted 0xF0 = true ∧ unadmitted 0x0F = true ∧ unadmitted 0x10 = false ∧ unadmitted 0xFF = true :=
  ⟨⟨rfl, rfl⟩, ⟨rfl, trivial⟩, ⟨⟨rfl, rfl⟩, by decide, by decide, rfl, rfl, rfl, rfl, rfl, rfl, rfl, rfl, rfl, rfl, rfl,
    rfl, rfl, rfl, rfl, rfl, trivial⟩, by decide⟩

/-- The opcode after one prefix byte. -/
theorem witness_IllegalModRMValuesRaiseIllegalOpcode :
    (let s := State.reset.storeCode 0 [0x26, 0xF7, 0xD8]
     let ps : List Instr := [.esOverride]
     s.ready ∧ (∀ p ∈ ps, p.isPrefix = true) ∧ ps.length ≤ 15 ∧
     s.holdsCode s.ip (ps.flatMap encodeFields ++ [.byte 0xF7, .byte 0xD8])) ∧ modrmIllegal 0xF7 0xD8 = true ∧
    modrmIllegal 0x8C 0x28 = false ∧ modrmIllegal 0x8C 0x30 = true ∧ modrmIllegal 0x8E 0x08 = true ∧
    modrmIllegal 0x8D 0xBF = false ∧ modrmIllegal 0x8D 0xC0 = true :=
  ⟨⟨⟨rfl, rfl⟩, by decide, by decide, rfl, rfl, rfl, trivial⟩, by decide⟩

/-- Sixteen DS overrides. -/
def sixteen : List Instr := List.replicate 16 .dsOverride

theorem witness_TheSixteenthPrefixRaisesIllegalOpcode :
    let s := State.reset.storeCode 0 (List.replicate 16 0x3E)
    s.ready ∧ sixteen.length = 16 ∧ (∀ p ∈ sixteen, p.isPrefix = true) ∧
    s.holdsCode s.ip (sixteen.flatMap encodeFields) :=
  ⟨⟨rfl, rfl⟩, rfl, by decide, rfl, rfl, rfl, rfl, rfl, rfl, rfl, rfl, rfl, rfl, rfl, rfl, rfl, rfl, rfl, rfl, trivial⟩

theorem witness_ALatchedFaultStopsEveryCycleUntilReset :
    cycle badState = .next (.faulted { cs := 0, ip := 0, bytes := [0xF0] }, afterBad) ∧ step nopState = .next afterNop :=
  ⟨badState_cycles, nopState_steps⟩

theorem witness_ACycleDuringTheHandlerIsRefused :
    ({ nopState with inh := true } : State).inh = true ∧ step nopState = .next afterNop ∧
    cycle badState = .next (.faulted { cs := 0, ip := 0, bytes := [0xF0] }, afterBad) := ⟨rfl, nopState_steps, badState_cycles⟩

theorem witness_DecodeReadsBackEveryEncoding :
    (Instr.addRm16Imm16 (.mem (.disp16 .bx 0x1234)) 0x5678).wellFormed = true ∧
    (Instr.movR16Rm16 .di (.mem (.direct 0xFFFF))).wellFormed = true := by decide

theorem witness_DecodedBytesAreTheEncoding : decode [0x8B, 0x46, 0x00, 0x90] = .ok (.movR16Rm16 .ax (.mem (.disp8 .bp 0)), [0x90]) :=
  rfl

theorem witness_AnEncodingHasOneToSixBytes : Instr.repPrefix.isPrefix = true := rfl

theorem witness_NoInstructionChangesUpperHalves :
    ∃ t, exec (.movR16Imm16 .ax 0x1234) nopState = .next t ∧ t.draws = nopState.draws := ⟨_, rfl, rfl⟩

theorem witness_OnlyTheListedFlagsAreWritten :
    (∃ t, exec .cli nopState = .next t ∧ t.draws = nopState.draws ∧ t.flag .IF ≠ nopState.flag .IF) ∧
    ∃ t, exec .std nopState = .next t ∧ t.draws = nopState.draws ∧ t.flag .DF ≠ nopState.flag .DF :=
  ⟨⟨_, rfl, rfl, by decide⟩, _, rfl, rfl, by decide⟩

theorem witness_OnlyTheListedInstructionsWriteSegments :
    (Instr.movSregRm16 .fs (.reg .ax)).wellFormed = true ∧
    ∃ t, exec (.movSregRm16 .fs (.reg .ax)) (nopState.set16 .ax 0x4000) = .next t ∧
      t.draws = (nopState.set16 .ax 0x4000).draws ∧ t.segs.get .fs ≠ (nopState.set16 .ax 0x4000).segs.get .fs :=
  ⟨rfl, _, rfl, rfl, by decide⟩

theorem witness_OnlyIntAndDivSignalAnInterrupt :
    (Instr.intImm8 3).isPrefix = false ∧ nopState.inh = false ∧
    (∃ t, exec (.intImm8 3) nopState = .next t ∧ t.draws ≠ nopState.draws) ∧
    ∃ t, exec .nop nopState = .next t ∧ t.draws = nopState.draws :=
  ⟨rfl, rfl, ⟨_, rfl, Nat.succ_ne_self _⟩, _, rfl, rfl⟩

theorem witness_EveryInstructionKeepsBasesAndMemory :
    (∃ t, exec (.pushR16 .ax) nopState = .next t) ∧ nopState.segs.coherent ∧ Memory.wf nopState.bus.ram :=
  ⟨⟨_, rfl⟩, nopState_inv.bases, nopState_inv.memory⟩

theorem witness_AdditionFlagsFollowTheExactSum : (8 = 8 ∨ 8 = 16) ∧ (16 = 8 ∨ 16 = 16) ∧ (AluOp.adc = .add ∨ AluOp.adc = .adc) := by decide

theorem witness_SubtractionFlagsFollowTheExactDifference :
    (16 = 8 ∨ 16 = 16) ∧ (AluOp.sbb = .sub ∨ AluOp.sbb = .sbb ∨ AluOp.sbb = .cmp) := by decide

theorem witness_LogicalFlagsFollowTheBitwiseResult :
    (8 = 8 ∨ 8 = 16) ∧ (AluOp.xor = .and ∨ AluOp.xor = .or ∨ AluOp.xor = .xor) := by decide

theorem witness_ByteAluInstructionsWriteResultAndFlags :
    nopState.aluByte (.r8rm8 .ah (.mem (.disp8 .bp 4))) = some (.reg .ah, 0, [.readByte 4], .ss) ∧
    nopState.aluByte (.rm8Imm8 (.mem (.noDisp .bx)) 0x10) = some (.mem (.noDisp .bx), 0x10, [.readByte 0], .ds) ∧
    AluOp.cmp = .cmp ∧ AluOp.add ≠ .cmp := by decide

theorem witness_WordAluInstructionsWriteResultAndFlags :
    nopState.aluWord (.rm16Imm8 (.reg .cx) 0xFF) = some (.reg .cx, 0xFFFF, [], .ds) ∧
    nopState.aluWord (.axImm16 0x8000) = some (.reg .ax, 0x8000, [], .ds) ∧ AluOp.cmp = .cmp ∧ AluOp.sub ≠ .cmp := by decide

theorem witness_DivWritesQuotientAndRemainder :
    let s := ((nopState.set16 .dx 0xFFFE).set16 .ax 0xFFFF).set16 .cx 0xFFFF
    (s.wordAt (.reg .cx)).toNat ≠ 0 ∧
    ((s.regs.get16 .dx).toNat * 65536 + (s.regs.get16 .ax).toNat) / (s.wordAt (.reg .cx)).toNat ≤ 0xFFFF := by decide

theorem witness_DivisionFaultSignalsInterruptZero :
    (nopState.wordAt (.reg .cx)).toNat = 0 ∧
    (let s := (nopState.set16 .dx 1).set16 .cx 1
     ((s.regs.get16 .dx).toNat * 65536 + (s.regs.get16 .ax).toNat) / (s.wordAt (.reg .cx)).toNat > 0xFFFF ∧
     (s.wordAt (.reg .cx)).toNat ≤ (s.regs.get16 .dx).toNat) := by decide

/-- On reset's bus no address is a device, so plain memory stands everywhere. -/
theorem nopState_plain (as : List Addr) : nopState.plainAt as := ⟨nopState_inv.memory, fun _ _ => rfl⟩

theorem witness_ByteMovesWriteTheirDestination :
    nopState.plainAt [0xFFFFFFFF] ∧ (0x08 : Byte).toNat / 8 % 8 ≠ 0 ∧ (0xFF : Byte).toNat / 8 % 8 ≠ 0 :=
  ⟨nopState_plain _, by decide⟩

theorem witness_WordMovesWriteTheirDestination :
    nopState.plainAt [0xFFFFFFFF, 0] ∧ (0xC8 : Byte).toNat / 8 % 8 ≠ 0 ∧ 6 ≤ (0xF0 : Byte).toNat / 8 % 8 :=
  ⟨nopState_plain _, by decide⟩

theorem witness_MovSregLoadsSelectorAndBase :
    SegReg.gs ≠ .cs ∧ SegReg.es ≠ .gs ∧ (0xC8 : Byte).toNat / 8 % 8 = 1 ∧ 6 ≤ (0x30 : Byte).toNat / 8 % 8 := by decide

theorem witness_LeaWritesTheOffsetAndNopNothing :
    (192 ≤ (0xC0 : Byte).toNat) ∧
    ∃ t u, exec (.leaR16M .ax (.disp8 .bp 4)) nopState = .next t ∧
      exec (.leaR16M .ax (.disp8 .bp 4)) { nopState with ads := .es, ovr := true, bus := platform.bus } = .next u :=
  ⟨by decide, _, _, rfl, rfl⟩

theorem witness_PushStoresTheWordBelowTheStack :
    nopState.plainAt [0xFFFE, 0xFFFF] ∧
    (∃ r, Instr.pushR16 .sp = .pushR16 r ∧ (0x54 : Byte) = 0x50 + r.code.setWidth 8 ∧ 0 = nopState.regs.get16 r) ∧
    (Instr.pushCs = .pushCs ∧ (0x0E : Byte) = 0x0E ∧ 0 = (nopState.segs.get .cs).sel) :=
  ⟨nopState_plain _, ⟨.sp, rfl, rfl, rfl⟩, rfl, rfl, rfl⟩

theorem witness_PopLoadsTheWordOnTheStack :
    ((Instr.popSs = .popEs ∧ (0x17 : Byte) = 0x07 ∧ SegReg.ss = .es) ∨
      (Instr.popSs = .popSs ∧ (0x17 : Byte) = 0x17 ∧ SegReg.ss = .ss) ∨
      (Instr.popSs = .popDs ∧ (0x17 : Byte) = 0x1F ∧ SegReg.ss = .ds)) ∧ SegReg.es ≠ .ss := by decide

theorem witness_PushThenPopRoundTrips :
    (let a := nopState.segAddr .ss (nopState.get16 .sp - 2)
     nopState.plainAt [a, a + 1]) ∧
    (∃ t u, exec (.pushR16 .ax) nopState = .next t ∧ exec (.popR16 .bx) t = .next u) ∧ Reg16.bx ≠ .sp :=
  ⟨nopState_plain _, ⟨_, _, rfl, rfl⟩, by decide⟩

theorem witness_JumpsGoToTheirTarget : SegReg.ds ≠ .cs := by decide

theorem witness_ConditionalJumpsFollowTheConditionTable : jumpTaken .z nopState ∧ ¬ jumpTaken .nz nopState :=
  ⟨show nopState.flag .ZF = true by decide, show ¬ nopState.flag .ZF = false by decide⟩

theorem witness_CallsPushTheReturnAddress : nopState.plainAt [0xFFFE, 0xFFFF, 0xFFFC, 0xFFFD] ∧ SegReg.ds ≠ .cs :=
  ⟨nopState_plain _, by decide⟩

theorem witness_ReturnsPopTheirTarget :
    ((Instr.ret = .ret ∧ (0 : Word) = 0) ∨ Instr.ret = .retImm16 0) ∧
    ((Instr.retfImm16 2 = .retf ∧ (2 : Word) = 0) ∨ Instr.retfImm16 2 = .retfImm16 2) ∧ SegReg.ds ≠ .cs := by decide

theorem witness_ReturnAfterCallComesBack :
    (let a := nopState.segAddr .ss (nopState.get16 .sp - 2)
     let b := nopState.segAddr .ss (nopState.get16 .sp - 4)
     nopState.plainAt [a, a + 1] ∧ nopState.plainAt [a, a + 1, b, b + 1]) ∧
    (∃ t u, exec (.callRel16 0x10) nopState = .next t ∧ exec .ret t = .next u) ∧
    ∃ t u, exec (.callFar 0x1234 0x3000) nopState = .next t ∧ exec .retf t = .next u :=
  ⟨⟨nopState_plain _, nopState_plain _⟩, ⟨_, _, rfl, rfl⟩, _, _, rfl, rfl⟩

theorem witness_AStringInstructionDoesOneUnit : nopState.rep = false ∧ nopState.plainAt [0] := ⟨rfl, nopState_plain _⟩

/-- A repeat prefix read, and a count. -/
def repState (cx : Word) : State := { strState cx 0x0100 0x0200 with rep := true }

theorem witness_RepeatUnrollsOneUnitAtATime :
    (Instr.cmpsb = .movsb ∨ Instr.cmpsb = .cmpsb ∨ Instr.cmpsb = .lodsb) ∧ (repState 0).rep = true ∧
    (repState 0).get16 .cx = 0 ∧ (repState 1).rep = true ∧ (repState 1).get16 .cx ≠ 0 := by decide

theorem witness_RepeatConsumesTheFullCount :
    (Instr.lodsb = .movsb ∨ Instr.lodsb = .cmpsb ∨ Instr.lodsb = .lodsb) ∧ (repState 0xFFFF).rep = true := by decide

theorem witness_RepMovsbCopiesTheBlock :
    (repState 3).rep = true ∧ (∀ as, (repState 3).plainAt as) ∧ ((repState 3).get16 .cx).toNat = 3 ∧
    ∀ j < 3, ∀ k < 3,
      (repState 3).segAddr (repState 3).ads ((repState 3).stepped ((repState 3).get16 .si) j) ≠
      (repState 3).segAddr .es ((repState 3).stepped ((repState 3).get16 .di) k) :=
  ⟨rfl, fun _ => ⟨by decide, fun _ _ => rfl⟩, by decide⟩

theorem witness_FlagControlWritesOneFlag :
    (Instr.cmc = .cmc ∧ (0xF5 : Byte) = 0xF5 ∧ Flag.CF = .CF ∧ true = !nopState.flag .CF) ∧
    (Instr.cli = .cli ∧ (0xFA : Byte) = 0xFA ∧ Flag.IF = .IF ∧ false = false) := by
  decide

theorem witness_RegisterViewsShareTheirStorage : Slot.ip ≠ .ax := by decide

theorem witness_ASelectorWriteSetsTheBase :
    SegReg.cs ≠ .gs ∧ ∃ t, exec (.movSregRm16 .gs (.reg .ax)) (nopState.set16 .ax 0xFFFF) = .next t ∧
      t.segs.get .gs ≠ (nopState.set16 .ax 0xFFFF).segs.get .gs := ⟨by decide, _, rfl, by decide⟩

theorem witness_LinearAddressesAreNotWrapped : nopState.segs.coherent := nopState_inv.bases

theorem witness_WordsAreLittleEndian :
    nopState.plainAt [0xFFFFFFFF, 0xFFFFFFFF + 1] ∧ nopState.codeAddr 5 = 5 ∧ (5 : Addr) ≠ 0xFFFFFFFF ∧
    (5 : Addr) ≠ 0xFFFFFFFF + 1 := ⟨nopState_plain _, by decide⟩

theorem witness_EffectiveAddressesFollowTheBaseTable :
    MemForm.wellFormed (.noDisp .bpdi) = true ∧ MemForm.wellFormed (.direct 0xFFFF) = true ∧
    MemForm.wellFormed (.disp8 .bp 0x80) = true ∧ MemForm.wellFormed (.disp16 .bp 0xFFFF) = true := by decide

theorem witness_FlagWritesKeepEveryOtherBit : (11 : Nat) ≠ 12 ∧ (14 : Nat) ≠ 13 := by decide

theorem witness_HighByteViewsExistForSlotsZeroToThree :
    (ViewWidth.full32 ≠ .high8 ∨ Slot.ip = .ax ∨ Slot.ip = .cx ∨ Slot.ip = .dx ∨ Slot.ip = .bx) ∧
    (ViewWidth.high8 ≠ .high8 ∨ Slot.bx = .ax ∨ Slot.bx = .cx ∨ Slot.bx = .dx ∨ Slot.bx = .bx) := by decide

/-- Plain memory on reset's bus; on the platform a device at both ends of its window and none beside it, and a word that
only begins before the window. -/
theorem witness_MemoryIsAnArgument :
    State.reset.bus.isDevice 0x300 = false ∧ platform.bus.isDevice 0x300 = true ∧ platform.bus.isDevice 0x301 = true ∧
    platform.bus.isDevice 0x302 = false ∧ platform.bus.isDevice 0x2FF = false ∧
    (platform.bus.isDevice 0x2FF = true ∨ platform.bus.isDevice (0x2FF + 1) = true) := by decide

end Sys2Proof.Tests
end

section
/-! MEM as an argument (00_scope.md R6, 20_memory.md R80): what the bus answers and keeps at a device, the counterpart of
the laws of plain memory behind the bus, and the invariant of reset on any bus. -/

namespace Sys2Proof.Machine

/-! ### Operations at a device (20_memory.md R80, R82, R83, R86) -/

theorem Bus.atDevice_byte_of_device {b : Bus} {a : Addr} (h : b.isDevice a = true) (v : Byte) :
    b.atDevice (.readByte a) = true ∧ b.atDevice (.writeByte a v) = true := by
  simp [Bus.atDevice, BusOp.addrs, h]

theorem Bus.atDevice_word_of_device {b : Bus} {a : Addr} (h : b.isDevice a = true ∨ b.isDevice (a + 1) = true) (v : Word) :
    b.atDevice (.readWord a) = true ∧ b.atDevice (.writeWord a v) = true := by
  simpa [Bus.atDevice, BusOp.addrs] using h

/-- The device has seen the operation, whole, and nothing else on the bus changed. -/
theorem Bus.after_of_atDevice {b : Bus} {op : BusOp} (h : b.atDevice op = true) :
    b.after op = { b with log := b.log ++ [op] } :=
  if_pos h

theorem Bus.readByte_of_atDevice {b : Bus} {a : Addr} (h : b.atDevice (.readByte a) = true) :
    b.readByte a = Config.deviceByte b.log a :=
  if_pos h

theorem Bus.readWord_of_atDevice {b : Bus} {a : Addr} (h : b.atDevice (.readWord a) = true) :
    b.readWord a = Config.deviceWord b.log a :=
  if_pos h

/-! ### The same for the core's accesses -/

theorem State.sawByte_plain {s : State} {a : Addr} (h : s.bus.isDevice a = false) : s.sawByte a = s := by
  rw [State.sawByte, Bus.after_readByte h]

theorem State.sawWord_plain {s : State} {a : Addr} (h : s.bus.isDevice a = false)
    (h1 : s.bus.isDevice (a + 1) = false) : s.sawWord a = s := by
  rw [State.sawWord, Bus.after_readWord h h1]

theorem State.byte_at_device {s : State} {a : Addr} (h : s.bus.isDevice a = true) :
    s.readByte a = Config.deviceByte s.bus.log a ∧
    s.sawByte a = { s with bus := { s.bus with log := s.bus.log ++ [.readByte a] } } ∧
    ∀ v, s.writeByte a v = { s with bus := { s.bus with log := s.bus.log ++ [.writeByte a v] } } := by
  have hr := (Bus.atDevice_byte_of_device h 0).1
  refine ⟨Bus.readByte_of_atDevice hr, ?_, fun v => ?_⟩
  · rw [State.sawByte, Bus.after_of_atDevice hr]
  · rw [State.writeByte, Bus.after_of_atDevice (Bus.atDevice_byte_of_device h v).2]

theorem State.word_at_device {s : State} {a : Addr} (h : s.bus.isDevice a = true ∨ s.bus.isDevice (a + 1) = true) :
    s.readWord a = Config.deviceWord s.bus.log a ∧
    s.sawWord a = { s with bus := { s.bus with log := s.bus.log ++ [.readWord a] } } ∧
    ∀ v, s.writeWord a v = { s with bus := { s.bus with log := s.bus.log ++ [.writeWord a v] } } := by
  have hr := (Bus.atDevice_word_of_device h 0).1
  refine ⟨Bus.readWord_of_atDevice hr, ?_, fun v => ?_⟩
  · rw [State.sawWord, Bus.after_of_atDevice hr]
  · rw [State.writeWord, Bus.after_of_atDevice (Bus.atDevice_word_of_device h v).2]

/-! ### Reset on any bus -/

theorem reset_atBoundary : State.reset.atBoundary := ⟨rfl, rfl, rfl, rfl, rfl⟩

/-- The core's part of the invariant does not depend on the bus: reset meets it on every canonical MEM. -/
theorem reset_onBus_inv {b : Bus} (h : Memory.wf b.ram) : Inv (State.reset.onBus b) where
  memory := h
  bases := reset_coherent
  boundary := ⟨reset_atBoundary.ads, reset_atBoundary.ovr, reset_atBoundary.rep, reset_atBoundary.inh,
    reset_atBoundary.signal⟩

/-- Any content, any windows and any history make a bus: its plain memory lists the content. -/
theorem Bus.exists_of_content (f : Addr → Byte) (devices : List Window) (log : List BusOp) :
    ∃ b : Bus, Memory.wf b.ram ∧ b.devices = devices ∧ b.log = log ∧ ∀ a, b.isDevice a = false → b.readByte a = f a := by
  obtain ⟨m, hm, hf⟩ := Memory.exists_of_content f
  exact ⟨⟨m, devices, log⟩, hm, rfl, rfl, fun a ha => (Bus.readByte_plain ha).trans (hf a)⟩

/-- Settles O60: the bus is `Bus.exists_of_content`; an access at plain memory or at a device is its law above. -/
theorem memoryIsAnArgument : Obligations.MemoryIsAnArgument := by
  refine ⟨fun f devices log => ?_, fun _ _ h => ⟨State.sawByte_plain h, State.sawWord_plain h⟩,
    fun _ _ => State.byte_at_device, fun _ _ => State.word_at_device⟩
  obtain ⟨b, hm, hd, hl, hf⟩ := Bus.exists_of_content f devices log
  exact ⟨b, reset_onBus_inv hm, hd, hl, hf⟩

end Sys2Proof.Machine
end

section
/-! The rules of the state (10_state.md). From `Moves`, once for all instructions: what a meaning does to the bus, to the
segment file, to the upper halves of the slots, to the flags and to the sequencer; then once for all Cycles. Beside them
the host's accesses to slots, flags and selectors. -/

namespace Sys2Proof.Machine

/-! ### The bits above the word of a slot (10_state.md R35) -/

theorem RegFile.sameUpper_of_bits {r t : RegFile}
    (h : ∀ n i, 16 ≤ i → (t.get n).getLsbD i = (r.get n).getLsbD i) : r.sameUpper t := by
  refine fun n => BitVec.eq_of_getLsbD_eq fun i hi => ?_
  rw [BitVec.getLsbD_extractLsb', BitVec.getLsbD_extractLsb', h n _ (Nat.le_add_right 16 i)]

theorem RegFile.sameUpper_setR16 (r : RegFile) (n : Slot) (v : Word) : r.sameUpper (r.setR16 n v) :=
  sameUpper_of_bits fun m i hi => by rw [getLsbD_setR16, if_neg (by omega)]

theorem RegFile.sameUpper_set8 (r : RegFile) (c : Reg8) (v : Byte) : r.sameUpper (r.set8 c v) := by
  refine sameUpper_of_bits fun m i hi => ?_
  rw [RegFile.set8]
  split
  · rw [getLsbD_setR8H, if_neg (by omega)]
  · rw [getLsbD_setR8L, if_neg (by omega)]

theorem RegFile.sameUpper.trans {r t u : RegFile} (h : r.sameUpper t) (h' : t.sameUpper u) : r.sameUpper u :=
  fun n => (h n).trans (h' n)

/-! ### What every instruction does, by induction over its writes -/

section Moves

variable {i : Instr} {s t : State}

theorem Moves.draws_le (h : Moves i s t) : s.draws ≤ t.draws := by
  induction h with
  | refl => exact Nat.le_refl _
  | interrupt n _ _ ih => exact Nat.le_succ_of_le ih
  | _ => rename_i ih; exact ih

/-- A handler call shows in `draws`, whatever came before it. -/
theorem Moves.draws_ne_of_interrupt (h : Moves i s t) (n : Byte) : (signalInterrupt n t).draws ≠ s.draws :=
  Nat.ne_of_gt (Nat.lt_succ_of_le h.draws_le)

/-- R35: no write of the core reaches above a 16-bit view. -/
theorem Moves.sameUpper (h : Moves i s t) : t.draws = s.draws → s.regs.sameUpper t.regs := by
  induction h with
  | refl => exact fun _ _ => rfl
  | set8 c v _ ih => exact fun hd => (ih hd).trans (RegFile.sameUpper_set8 _ c v)
  | set16 c v _ ih => exact fun hd => (ih hd).trans (RegFile.sameUpper_setR16 _ c.slot v)
  | setIp v _ ih => exact fun hd => (ih hd).trans (RegFile.sameUpper_setR16 _ .ip v)
  | interrupt n _ h _ => exact fun hd => absurd hd (h.draws_ne_of_interrupt n)
  | _ => rename_i ih; exact ih

/-- R47, R49: a bit that no flag of the instruction stands at is kept. -/
theorem Moves.flag_bit_kept {n : Nat} (hn : ∀ x, mayWriteFlag i x → x.bit ≠ n) (h : Moves i s t) :
    t.draws = s.draws → t.flags.getLsbD n = s.flags.getLsbD n := by
  induction h with
  | refl => exact fun _ => rfl
  | flag x b hx _ ih => exact fun hd => by rw [getLsbD_setFlag, if_neg (hn x hx).symm, ih hd]
  | interrupt n _ h _ => exact fun hd => absurd hd (h.draws_ne_of_interrupt n)
  | _ => rename_i ih; exact ih

/-- A flag that changed is one the instruction may write. -/
theorem Moves.mayWriteFlag_of_changed (h : Moves i s t) (hd : t.draws = s.draws) {x : Flag}
    (hx : t.flag x ≠ s.flag x) : mayWriteFlag i x := by
  by_contra hw
  refine hx (h.flag_bit_kept (fun y hy hb => hw ?_) hd)
  rwa [← Flag.bit_injective hb]

/-- R43: a segment register that changed is one the instruction may write. -/
theorem Moves.mayWriteSegment_of_changed (hw : i.wellFormed = true) {r : SegReg} (h : Moves i s t) :
    t.draws = s.draws → t.segs.get r ≠ s.segs.get r → mayWriteSegment i r := by
  induction h with
  | refl => exact fun _ hr => absurd rfl hr
  | seg q v hq _ ih =>
    intro hd hr
    rw [State.loadSeg_segs, SegFile.get_set] at hr
    split at hr
    · rename_i he
      exact he ▸ hq hw
    · exact ih hd hr
  | interrupt n _ h _ => exact fun hd => absurd hd (h.draws_ne_of_interrupt n)
  | _ => rename_i ih; exact ih

/-- R41, R42: a segment register is as it was, or was written through its selector; the handler's writes among them. -/
theorem Moves.segment_kept_or_loaded (h : Moves i s t) (r : SegReg) :
    t.segs.get r = s.segs.get r ∨ (t.segs.get r).base = (t.segs.get r).sel.setWidth 32 <<< 4 := by
  induction h with
  | refl => exact .inl rfl
  | seg q v _ _ ih =>
    rw [State.loadSeg_segs, SegFile.get_set]
    split
    · exact .inr rfl
    · exact ih
  | interrupt n _ _ _ => exact .inr (signalInterrupt_coherent n _ r)
  | _ => rename_i ih; exact ih

theorem Moves.coherent (h : Moves i s t) (hs : s.segs.coherent) : t.segs.coherent := by
  intro r
  obtain hr | hr := h.segment_kept_or_loaded r
  · rw [hr]
    exact hs r
  · exact hr

/-- R80, R82, R83: all an instruction does to the bus is operations on it, the handler's among them. -/
theorem Moves.bus_run (h : Moves i s t) : ∃ ops, t.bus = s.bus.run ops := by
  induction h with
  | refl => exact ⟨[], rfl⟩
  | bus op _ ih =>
    obtain ⟨ops, hb⟩ := ih
    exact ⟨ops ++ [op], by rw [Bus.run_append, ← hb]; rfl⟩
  | @interrupt u n _ _ ih =>
    obtain ⟨ops, hb⟩ := ih
    exact ⟨ops ++ _, by rw [Bus.run_append, ← hb]; exact (interruptTaken_signal n u).bus⟩
  | _ => rename_i ih; exact ih

theorem Moves.memory_wf (h : Moves i s t) (hs : Memory.wf s.bus.ram) : Memory.wf t.bus.ram := by
  obtain ⟨ops, hb⟩ := h.bus_run
  rw [hb]
  exact Bus.run_wf ops hs

theorem Moves.fault (h : Moves i s t) : t.fault = s.fault := by
  induction h with
  | refl => rfl
  | _ => rename_i ih; exact ih

/-- R56: INH is down again when the handler has returned. -/
theorem Moves.inh (h : Moves i s t) (hs : s.inh = false) : t.inh = false := by
  induction h with
  | refl => exact hs
  | interrupt n _ _ _ => rfl
  | _ => rename_i ih; exact ih

end Moves

/-! ### What every Cycle does -/

/-- What every instruction keeps, the prefixes and the instruction of one Cycle keep. -/
theorem execPhase_keeps {P : State → Prop} (hP : ∀ i s t, Moves i s t → P s → P t) {ps : List Instr} {i : Instr}
    {s atExec t : State} (hp : runPrefixes ps s = .next atExec) (he : exec i atExec = .next t) (hs : P s) : P t :=
  have hexec : ∀ j u v, P u → exec j u = .next v → P v := fun j u v hu hv => hP j u v (exec_moves hv) hu
  hexec _ _ _ (runPrefixes_keeps hexec ps hp hs) he

/-- The post-instruction reset leaves nothing but INH to ask of an instruction boundary. -/
theorem retire_atBoundary {s : State} (h : s.inh = false) (start atExec : State) (i : Instr) (bytes : List Byte) :
    (s.retire start atExec i bytes).atBoundary :=
  ⟨rfl, rfl, rfl, h, rfl⟩

theorem decodeFail_atBoundary {s : State} (h : s.inh = false) (c : Cursor FetchPos) : (s.decodeFail c).atBoundary :=
  ⟨rfl, rfl, rfl, h, rfl⟩

/-- R54: whatever state a Cycle begins in, it ends at an instruction boundary unless it only reports a latched fault. -/
theorem cycle_atBoundary {s t : State} {e : Event} (hf : s.fault = none) (h : cycle s = .next (e, t)) :
    t.atBoundary := by
  obtain ⟨hi, ⟨f, hf', -⟩ | ⟨-, c, -, -, rfl⟩ | ⟨-, ps, i, c, atExec, u, -, hp, he, -, rfl⟩⟩ := cycle_cases h
  · exact absurd (hf.symm.trans hf') (by simp)
  · exact decodeFail_atBoundary hi c
  · exact retire_atBoundary (execPhase_keeps (P := (·.inh = false)) (fun _ _ _ => Moves.inh) hp he hi) ..

/-- R42, R80: every Cycle keeps the base cache and the canonical form of memory; the fetch only reads. -/
theorem cycle_keeps_bases_and_memory {s t : State} {e : Event} (hc : s.segs.coherent) (hm : Memory.wf s.bus.ram)
    (h : cycle s = .next (e, t)) : t.segs.coherent ∧ Memory.wf t.bus.ram := by
  have hread := (fetchCycle_reads s).1
  obtain ⟨-, ⟨f, -, -, rfl⟩ | ⟨-, c, hfetch, -, rfl⟩ | ⟨-, ps, i, c, atExec, u, hfetch, hp, he, -, rfl⟩⟩ := cycle_cases h
  · exact ⟨hc, hm⟩
  · rw [hfetch] at hread
    exact ⟨hc, hread ▸ hm⟩
  · rw [hfetch] at hread
    have hu : u.segs.coherent := execPhase_keeps (P := (·.segs.coherent)) (fun _ _ _ => Moves.coherent) hp he hc
    have hw : Memory.wf u.bus.ram := execPhase_keeps (P := (Memory.wf ·.bus.ram)) (fun _ _ _ => Moves.memory_wf) hp he
      (hread ▸ hm)
    exact ⟨hu, hw⟩

theorem cycle_keeps_inv {s t : State} {e : Event} (hs : Inv s) (h : cycle s = .next (e, t)) : Inv t := by
  obtain ⟨hbases, hmemory⟩ := cycle_keeps_bases_and_memory hs.bases hs.memory h
  refine ⟨hmemory, hbases, ?_⟩
  obtain ⟨-, ⟨f, -, -, rfl⟩ | ⟨hf, -⟩ | ⟨hf, -⟩⟩ := cycle_cases h
  · exact hs.boundary
  · exact cycle_atBoundary hf h
  · exact cycle_atBoundary hf h

/-- R55: a Cycle that answers a fault leaves it latched, and no handler runs. -/
theorem fault_latched_of_faulted {s t : State} {f : IllegalOpcode} (h : cycle s = .next (.faulted f, t)) :
    t.fault = some f ∧ t.inh = false := by
  obtain ⟨hi, ⟨g, hg, he, rfl⟩ | ⟨-, c, -, he, rfl⟩ | ⟨-, -, -, -, -, u, -, -, -, he, -⟩⟩ := cycle_cases h
  · cases he
    exact ⟨hg, hi⟩
  · cases he
    exact ⟨rfl, hi⟩
  · exact absurd he.symm (event_ne_faulted u f)

/-- R55: a latched fault is reported again and nothing is executed. -/
theorem cycle_of_latched {s : State} {f : IllegalOpcode} (hf : s.fault = some f) (hi : s.inh = false) :
    cycle s = .next (.faulted f, s) := by
  simp [cycle, hi, hf]

/-! ### Settled: the Cycle -/

/-- Settles O3: every next state of `step` is that of a Cycle, and `cycle_keeps_inv`. -/
theorem everyCycleKeepsTheInvariant : Obligations.EveryCycleKeepsTheInvariant := by
  refine fun s hs => ⟨fun t h => ?_, fun e t => cycle_keeps_inv hs⟩
  obtain ⟨e, hc, -⟩ := cycle_of_step h
  exact cycle_keeps_inv hs hc

/-- Settles O4: a Cycle that completes as a step had no fault latched, so `cycle_atBoundary` speaks of it. -/
theorem everyCycleEndsAtAnInstructionBoundary : Obligations.EveryCycleEndsAtAnInstructionBoundary := by
  refine ⟨fun s t h => ?_, fun s e t => cycle_atBoundary, reset_atBoundary⟩
  obtain ⟨e, hc, -⟩ := cycle_of_step h
  obtain ⟨-, hf, -⟩ := step_cases h
  exact cycle_atBoundary hf hc

/-- Settles O12: the latch after a failing Cycle, the answer of a latched Cycle, and no instruction sets the latch. -/
theorem aLatchedFaultStopsEveryCycleUntilReset : Obligations.ALatchedFaultStopsEveryCycleUntilReset := by
  refine ⟨fun s t f h => ?_, fun s t h => ?_, fun _ => rfl, rfl⟩
  · obtain ⟨hf, hi⟩ := fault_latched_of_faulted h
    have ht := cycle_of_latched hf hi
    exact ⟨step_of_faulted h, hf, ht, step_of_faulted ht⟩
  · obtain ⟨-, hf, ps, i, c, atExec, u, -, hp, he, rfl⟩ := step_cases h
    have hu : u.fault = none := execPhase_keeps (P := (·.fault = none)) (fun _ _ _ hm hs => hm.fault.trans hs) hp he hf
    exact hu

/-! ### Settled: every instruction -/

/-- Settles O18: no write of an instruction reaches above a 16-bit view (`Moves.sameUpper`). -/
theorem noInstructionChangesUpperHalves : Obligations.NoInstructionChangesUpperHalves :=
  fun _ _ _ h => (exec_moves h).sameUpper

/-- Settles O19: a flag an instruction may write is one of the eight, IF and DF each only by its two instructions. -/
theorem onlyTheListedFlagsAreWritten : Obligations.OnlyTheListedFlagsAreWritten := by
  intro i s t h hd
  have hm := exec_moves h
  refine ⟨fun n hn => hm.flag_bit_kept (fun x hx => hn x ?_) hd, fun hx => ?_, fun hx => ?_⟩
  · obtain hx | ⟨rfl, -⟩ | ⟨rfl, -⟩ := hx
    · revert hx
      cases x <;> decide
    · decide
    · decide
  · simpa [mayWriteFlag, statusBits] using hm.mayWriteFlag_of_changed hd hx
  · simpa [mayWriteFlag, statusBits] using hm.mayWriteFlag_of_changed hd hx

/-- Settles O20: a segment register that changed was written by a selector write the instruction may do. -/
theorem onlyTheListedInstructionsWriteSegments : Obligations.OnlyTheListedInstructionsWriteSegments :=
  fun _ _ _ hw h hd _ => (exec_moves h).mayWriteSegment_of_changed hw hd

/-- Settles O22: the segment file changes by selector writes, the bus by bus operations. -/
theorem everyInstructionKeepsBasesAndMemory : Obligations.EveryInstructionKeepsBasesAndMemory := by
  intro i s t h
  have hm := exec_moves h
  obtain ⟨ops, hb⟩ := hm.bus_run
  refine ⟨hm.coherent, hm.memory_wf, ?_⟩
  rw [hb]
  exact ⟨Bus.run_devices _ ops, Bus.run_log _ ops⟩

/-! ### The host's accesses: slots (10_state.md R31, R32) -/

theorem toNat_append_mul {m n : Nat} (x : BitVec m) (y : BitVec n) :
    (x ++ y).toNat = x.toNat * 2 ^ n + y.toNat := by
  rw [BitVec.toNat_append, ← Nat.shiftLeft_add_eq_or_of_lt y.isLt, Nat.shiftLeft_eq]

theorem RegFile.toNat_setR16 (r : RegFile) (n : Slot) (v : Word) :
    ((r.setR16 n v).get n).toNat = (r.get n).toNat / 65536 * 65536 + v.toNat := by
  have := (r.get n).isLt
  rw [setR16, get_set, if_pos rfl, toNat_append_mul, BitVec.extractLsb'_toNat, Nat.shiftRight_eq_div_pow]
  omega

theorem RegFile.toNat_setR8L (r : RegFile) (n : Slot) (v : Byte) :
    ((r.setR8L n v).get n).toNat = (r.get n).toNat / 256 * 256 + v.toNat := by
  have := (r.get n).isLt
  rw [setR8L, get_set, if_pos rfl, toNat_append_mul, BitVec.extractLsb'_toNat, Nat.shiftRight_eq_div_pow]
  omega

theorem RegFile.toNat_setR8H (r : RegFile) (n : Slot) (v : Byte) :
    ((r.setR8H n v).get n).toNat = (r.get n).toNat / 65536 * 65536 + v.toNat * 256 + (r.get n).toNat % 256 := by
  have := (r.get n).isLt
  rw [setR8H, get_set, if_pos rfl, toNat_append_mul, toNat_append_mul, BitVec.extractLsb'_toNat,
    BitVec.extractLsb'_toNat, Nat.shiftRight_eq_div_pow, Nat.shiftRight_zero]
  omega

theorem Slot.hasHigh_eq_false_iff (n : Slot) :
    n.hasHigh = false ↔ n = .sp ∨ n = .bp ∨ n = .si ∨ n = .di ∨ n = .ip := by
  cases n <;> decide

theorem Slot.hasHigh_eq_true_iff (n : Slot) : n.hasHigh = true ↔ n = .ax ∨ n = .cx ∨ n = .dx ∨ n = .bx := by
  cases n <;> decide

/-- Settles O52: the value of each view and of each write in terms of the storage. -/
theorem registerViewsShareTheirStorage : Obligations.RegisterViewsShareTheirStorage := by
  refine fun r n => ⟨?_, ?_, ?_, fun v => ?_, RegFile.toNat_setR16 r n, RegFile.toNat_setR8L r n,
    RegFile.toNat_setR8H r n, fun m h => ⟨fun v => ?_, fun v => RegFile.get_setR16_other r v h,
      fun v => RegFile.get_setR8L_other r v h, fun v => RegFile.get_setR8H_other r v h⟩⟩
  · rw [RegFile.r16, BitVec.extractLsb'_toNat, Nat.shiftRight_zero]
  · rw [RegFile.r8l, BitVec.extractLsb'_toNat, Nat.shiftRight_zero]
  · rw [RegFile.r8h, BitVec.extractLsb'_toNat, Nat.shiftRight_eq_div_pow]
  · rw [RegFile.get_set, if_pos rfl]
  · rw [RegFile.get_set, if_neg h]

/-- Settles O59: the high view is refused exactly where `Slot.hasHigh` fails; no other width asks for it. -/
theorem highByteViewsExistForSlotsZeroToThree : Obligations.HighByteViewsExistForSlotsZeroToThree := by
  intro s n v
  refine ⟨?_, ?_, fun w hw => ?_⟩
  · rw [← Slot.hasHigh_eq_false_iff, State.hostGetReg]
    cases n.hasHigh <;> simp
  · rw [← Slot.hasHigh_eq_false_iff, State.hostSetReg]
    cases n.hasHigh <;> simp
  · cases w with
    | low8 => exact ⟨⟨_, rfl⟩, _, rfl⟩
    | high8 =>
      have hn : n.hasHigh = true := (Slot.hasHigh_eq_true_iff n).mpr (hw.resolve_left (fun h => h rfl))
      exact ⟨⟨_, if_pos hn⟩, _, if_pos hn⟩
    | word16 => exact ⟨⟨_, rfl⟩, _, rfl⟩
    | full32 => exact ⟨⟨_, rfl⟩, _, rfl⟩

/-! ### The host's accesses: selectors and flags (10_state.md R41, R46, R48) -/

/-- Settles O54: `SegEntry.load` gives the base of the host's write; an instruction writes by it too. -/
theorem aSelectorWriteSetsTheBase : Obligations.ASelectorWriteSetsTheBase := by
  refine ⟨fun s r v => ?_, fun i s t r h hr => ?_⟩
  · have hget : (s.hostSetSeg r v).segs.get r = .load v := by
      rw [State.hostSetSeg, State.loadSeg_segs, SegFile.get_set, if_pos rfl]
    have hbase : ((s.hostSetSeg r v).segs.get r).base.toNat = v.toNat * 16 := by rw [hget, SegEntry.load_base, toNat_base]
    refine ⟨by rw [hget, SegEntry.load_sel], hbase, ?_, fun q hq => ?_, rfl⟩
    · have := v.isLt
      omega
    · rw [State.hostSetSeg, State.loadSeg_segs, SegFile.get_set, if_neg hq]
  · rw [((exec_moves h).segment_kept_or_loaded r).resolve_left hr, toNat_base]

/-- The bits of the flags register after a host write of IOPL. -/
theorem getLsbD_hostSetIopl (s : State) (v : Fin 4) (n : Nat) : (s.hostSetIopl v).flags.getLsbD n =
    if n = 13 then v.val.testBit 1 else if n = 12 then v.val.testBit 0 else s.flags.getLsbD n := by
  rw [State.hostSetIopl, getLsbD_setBit _ _ (by decide), getLsbD_setBit _ _ (by decide)]

/-- Settles O58: bit by bit, from what a one-bit write leaves. -/
theorem flagWritesKeepEveryOtherBit : Obligations.FlagWritesKeepEveryOtherBit := by
  refine ⟨fun s x b n => getLsbD_setBit _ b x.isLt n, fun s v => ⟨?_, fun n h12 h13 => ?_⟩⟩
  · have hfield : (s.hostSetIopl v).flags.extractLsb' 12 2 = BitVec.ofNat 2 v.val := by
      refine BitVec.eq_of_getLsbD_eq fun i hi => ?_
      rw [BitVec.getLsbD_extractLsb', getLsbD_hostSetIopl, BitVec.getLsbD_ofNat]
      obtain rfl | rfl : i = 0 ∨ i = 1 := by omega
      · rfl
      · rfl
    rw [State.iopl, hfield, BitVec.toNat_ofNat, Nat.mod_eq_of_lt v.isLt]
  · rw [getLsbD_hostSetIopl, if_neg h13, if_neg h12]

/-- Settles O2: reset stands on a bus that lists nothing, and meets the invariant on any canonical one. -/
theorem resetMeetsTheInvariant : Obligations.ResetMeetsTheInvariant :=
  ⟨reset_onBus_inv reset_memory_wf, fun _ => reset_onBus_inv⟩

end Sys2Proof.Machine
end

section
/-! Linear addresses and plain memory as the core reads, fetches and writes it (20_memory.md R84, R85). -/

namespace Sys2Proof.Machine

/-! ### Linear addresses (20_memory.md R85) -/

/-- Settles O55: `toNat_segAddr` gives the sum; the bound is its value at selector 0xFFFF and offset 0xFFFF. -/
theorem linearAddressesAreNotWrapped : Obligations.LinearAddressesAreNotWrapped := by
  intro s r off hs
  have hsel := (s.segs.get r).sel.isLt
  have hoff := off.isLt
  have hsum := toNat_segAddr hs r off
  exact ⟨hsum, by omega⟩

/-! ### Words on plain memory (20_memory.md R84) -/

/-- The devices have not seen an operation on plain memory. -/
theorem Bus.after_log_plain {b : Bus} {op : BusOp} (h : b.atDevice op = false) : (b.after op).log = b.log := by
  rw [Bus.after, h]
  rfl

/-- An operation on plain memory leaves the answer at every other address as it was. At a device's address too, since
what a device answers hangs on its history alone. -/
theorem Bus.readByte_after_plain_other {b : Bus} {op : BusOp} {x : Addr} (hop : b.atDevice op = false)
    (hx : x ∉ op.stores) : (b.after op).readByte x = b.readByte x := by
  cases h : b.isDevice x with
  | false => exact Bus.readByte_after_other h hx
  | true =>
    have hb := (Bus.atDevice_byte_of_device h 0).1
    have ht : (b.after op).atDevice (.readByte x) = true := (Bus.atDevice_after b op _).trans hb
    rw [Bus.readByte_of_atDevice ht, Bus.readByte_of_atDevice hb, Bus.after_log_plain hop]

/-- A word fetched from plain memory is the byte at the lower address, then the byte above it. -/
theorem State.fetcher_next16_plain {s : State} {p : FetchPos} (h : p.bus.isDevice (s.codeAddr p.ip) = false)
    (h1 : p.bus.isDevice (s.codeAddr p.ip + 1) = false) :
    s.fetcher.next16 p = some (p.bus.readByte (s.codeAddr p.ip), p.bus.readByte (s.codeAddr p.ip + 1),
      { ip := p.ip + 2, bus := p.bus }) := by
  simp only [State.fetcher, Bus.readWord_plain h h1, loByte_wordOf, hiByte_wordOf, Bus.after_readWord h h1]

/-- Settles O56: each clause is the bus's law for that operation on plain memory. -/
theorem wordsAreLittleEndian : Obligations.WordsAreLittleEndian := by
  intro s a hp
  have h : s.bus.isDevice a = false := hp.noDevice a (by simp)
  have h1 : s.bus.isDevice (a + 1) = false := hp.noDevice (a + 1) (by simp)
  refine ⟨?_, fun ip hip => ?_, fun v b hb hb1 => ?_, fun v b hb => ?_,
    fun v => Bus.readByte_after_writeByte v hp.wf h, fun v => ?_⟩
  · rw [State.readWord, Bus.readWord_plain h h1, toNat_wordOf]
    rfl
  · subst hip
    exact State.fetcher_next16_plain h h1
  · exact Bus.readByte_after_plain_other (Bus.atDevice_word h h1 v).2 (by simpa [BusOp.stores, hb] using hb1)
  · exact Bus.readByte_after_plain_other (Bus.atDevice_byte h v).2 (by simp [BusOp.stores, hb])
  · obtain ⟨hlo, hhi⟩ := Bus.readByte_after_writeWord v hp.wf h h1
    exact ⟨(congrArg BitVec.toNat hlo).trans (toNat_loByte v), (congrArg BitVec.toNat hhi).trans (toNat_hiByte v),
      Bus.readWord_after_writeWord v hp.wf h h1⟩

end Sys2Proof.Machine
end

section
/-! The decoder reads back every encoding (30_encoding.md R120 to R134): for each family of instructions the format of its
encoding, the entry of the opcode map for its opcode byte, and the law of decoding that format. -/

namespace Sys2Proof

open Sys2Proof.Machine

/-! ### The two-operand instructions (41_alu.md R255) -/

/-- The operand of the form has an encoding. -/
def AluForm.wellFormed : AluForm → Bool
  | .rm8r8 e _ => e.wellFormed
  | .rm16r16 e _ => e.wellFormed
  | .r8rm8 _ e => e.wellFormed
  | .r16rm16 _ e => e.wellFormed
  | .alImm8 _ => true
  | .axImm16 _ => true
  | .rm8Imm8 e _ => e.wellFormed
  | .rm16Imm16 e _ => e.wellFormed
  | .rm16Imm8 e _ => e.wellFormed

theorem Instr.wellFormed_alu (op : AluOp) (f : AluForm) : (Instr.alu op f).wellFormed = f.wellFormed := by
  cases op <;> cases f <;> rfl

/-- The encoder follows the form table. -/
theorem encodeFields_alu (op : AluOp) (f : AluForm) : encodeFields (.alu op f) = aluEncoding op f := by
  cases op <;> cases f <;> rfl

/-- The opcode map holds the six one-byte-opcode forms of an operation in a row. -/
theorem opcodeMap_alu (op : AluOp) {k : Nat} (hk : k < 6) :
    opcodeMap (BitVec.ofNat 8 (aluNumber op * 8 + k)) = (aluEntries op).getD k none := by
  cases op <;> interval_cases k <;> rfl

theorem AluOp.ofNat_aluNumber (op : AluOp) : BitVec.ofNat 3 (aluNumber op) = op.code := by
  cases op <;> rfl

variable {σ : Type} {F : Fetcher σ} {p q : σ} {seen : List Byte}

theorem decodeFrom_aluEncoding {op : AluOp} {f : AluForm} (hw : f.wellFormed = true)
    (h : Reads F p (aluEncoding op f) q) :
    decodeFrom F ⟨p, seen⟩ = .ok (.alu op f) ⟨q, seen ++ fieldBytes (aluEncoding op f)⟩ := by
  cases f with
  | rm8r8 e g =>
    exact decodeFrom_modrm h (opcodeMap_alu op (k := 0) (by decide)) rfl ((RM.wellFormed_map _ e).trans hw) (by simp)
  | rm16r16 e g =>
    exact decodeFrom_modrm h (opcodeMap_alu op (k := 1) (by decide)) rfl ((RM.wellFormed_map _ e).trans hw) (by simp)
  | r8rm8 g e =>
    exact decodeFrom_modrm h (opcodeMap_alu op (k := 2) (by decide)) rfl ((RM.wellFormed_map _ e).trans hw) (by simp)
  | r16rm16 g e =>
    exact decodeFrom_modrm h (opcodeMap_alu op (k := 3) (by decide)) rfl ((RM.wellFormed_map _ e).trans hw) (by simp)
  | alImm8 ib => exact decodeFrom_imm8 (opcodeMap_alu op (k := 4) (by decide)) h
  | axImm16 iw => exact decodeFrom_imm16 (opcodeMap_alu op (k := 5) (by decide)) h
  | rm8Imm8 e ib =>
    exact decodeFrom_modrmImm8 h rfl rfl ((RM.wellFormed_map _ e).trans hw) (by simp [AluOp.ofNat_aluNumber])
  | rm16Imm16 e iw =>
    exact decodeFrom_modrmImm16 h rfl rfl ((RM.wellFormed_map _ e).trans hw) (by simp [AluOp.ofNat_aluNumber])
  | rm16Imm8 e ib =>
    exact decodeFrom_modrmImm8 h rfl rfl ((RM.wellFormed_map _ e).trans hw) (by simp [AluOp.ofNat_aluNumber])

/-! ### Every instruction -/

/-- Whatever the source of the bytes: where it holds the encoding of a well-formed instruction, the decoder reads that
instruction and all of its bytes. -/
theorem decodeFrom_encode {i : Instr} (hw : i.wellFormed = true) (h : Reads F p (encodeFields i) q) :
    decodeFrom F ⟨p, seen⟩ = .ok i ⟨q, seen ++ encode i⟩ := by
  induction i using Instr.byFamily with
  | alu op f =>
    rw [Instr.wellFormed_alu] at hw
    rw [encodeFields_alu] at h
    rw [encode, encodeFields_alu]
    exact decodeFrom_aluEncoding hw h
  | jcc c d => cases c <;> exact decodeFrom_imm8 rfl h
  | mulRm8 e => exact decodeFrom_modrm h rfl rfl ((RM.wellFormed_map _ e).trans hw) (by simp)
  | mulRm16 e => exact decodeFrom_modrm h rfl rfl ((RM.wellFormed_map _ e).trans hw) (by simp)
  | divRm16 e => exact decodeFrom_modrm h rfl rfl ((RM.wellFormed_map _ e).trans hw) (by simp)
  | movRm8R8 e g => exact decodeFrom_modrm h rfl rfl ((RM.wellFormed_map _ e).trans hw) (by simp)
  | movRm16R16 e g => exact decodeFrom_modrm h rfl rfl ((RM.wellFormed_map _ e).trans hw) (by simp)
  | movR8Rm8 g e => exact decodeFrom_modrm h rfl rfl ((RM.wellFormed_map _ e).trans hw) (by simp)
  | movR16Rm16 g e => exact decodeFrom_modrm h rfl rfl ((RM.wellFormed_map _ e).trans hw) (by simp)
  | movRm16Sreg e sr =>
    exact decodeFrom_modrm h rfl (by rw [SegReg.ofCode_code]; rfl) ((RM.wellFormed_map _ e).trans hw) (by simp)
  | movSregRm16 sr e =>
    obtain ⟨hcs, he⟩ : sr ≠ .cs ∧ e.wellFormed = true := by simpa [Instr.wellFormed] using hw
    exact decodeFrom_modrm h rfl (by rw [SegReg.ofLoadCode_code hcs]; rfl) ((RM.wellFormed_map _ e).trans he) (by simp)
  | leaR16M g m => exact (decodeFrom_modrmMem rfl hw h).trans (by rw [Reg16.ofCode_code]; rfl)
  | movAlMoffs8 off => exact decodeFrom_imm16 rfl h
  | movAxMoffs16 off => exact decodeFrom_imm16 rfl h
  | movMoffs8Al off => exact decodeFrom_imm16 rfl h
  | movMoffs16Ax off => exact decodeFrom_imm16 rfl h
  | movR8Imm8 r ib => cases r <;> exact decodeFrom_imm8 rfl h
  | movR16Imm16 r iw => cases r <;> exact decodeFrom_imm16 rfl h
  | movRm8Imm8 e ib => exact decodeFrom_modrmImm8 h rfl rfl ((RM.wellFormed_map _ e).trans hw) (by simp)
  | movRm16Imm16 e iw => exact decodeFrom_modrmImm16 h rfl rfl ((RM.wellFormed_map _ e).trans hw) (by simp)
  | pushR16 r => cases r <;> exact decodeFrom_plain rfl h
  | popR16 r => cases r <;> exact decodeFrom_plain rfl h
  | jmpRel8 d => exact decodeFrom_imm8 rfl h
  | jmpRel16 d => exact decodeFrom_imm16 rfl h
  | jmpFar off sel => exact decodeFrom_far rfl h
  | callRel16 d => exact decodeFrom_imm16 rfl h
  | callFar off sel => exact decodeFrom_far rfl h
  | retImm16 iw => exact decodeFrom_imm16 rfl h
  | retfImm16 iw => exact decodeFrom_imm16 rfl h
  | intImm8 n => exact decodeFrom_imm8 rfl h
  | _ => exact decodeFrom_plain rfl h

theorem decode_eq_ok {bs rest : List Byte} {i : Instr} :
    decode bs = .ok (i, rest) ↔ ∃ d, decodeFrom listFetcher ⟨bs, []⟩ = .ok i d ∧ d.pos = rest := by
  rw [decode]
  cases decodeFrom listFetcher ⟨bs, []⟩ <;> simp

theorem decode_eq_error {bs : List Byte} {e : DecodeError} :
    decode bs = .error e ↔ ∃ d, decodeFrom listFetcher ⟨bs, []⟩ = .bad e d := by
  rw [decode]
  cases decodeFrom listFetcher ⟨bs, []⟩ <;> simp

/-- Settles O14: a list of bytes is one source that holds the encoding. -/
theorem decodeReadsBackEveryEncoding : Obligations.DecodeReadsBackEveryEncoding :=
  fun i rest hw => decode_eq_ok.mpr ⟨_, decodeFrom_encode hw (reads_list (encodeFields i) rest), rfl⟩

end Sys2Proof
end

section
/-! The bytes the decoder accepts are an encoding (30_encoding.md R120, R122, R133 to R135): what each reading operation
has read when it went on, and, entry by entry of the opcode map, that the instruction made is encoded by these fields. -/

namespace Sys2Proof

open Sys2Proof.Machine

/-! ### What was read -/

section Reading

variable {σ : Type} {F : Fetcher σ} {c d : Cursor σ} {i : Instr}

theorem fetch8_ok {k : Byte → Cursor σ → Decoded σ} (h : fetch8 F c k = .ok i d) :
    ∃ b p, F.next8 c.pos = some (b, p) ∧ k b ⟨p, c.seen ++ [b]⟩ = .ok i d := by
  rw [fetch8] at h
  split at h
  · cases h
  · exact ⟨_, _, by assumption, h⟩

/-- Any two bytes are those of a word, so the source held it as a field. -/
theorem fetch16_ok {k : Word → Cursor σ → Decoded σ} (h : fetch16 F c k = .ok i d) :
    ∃ w p, F.next16 c.pos = some (loByte w, hiByte w, p) ∧ k w ⟨p, c.seen ++ [loByte w, hiByte w]⟩ = .ok i d := by
  rw [fetch16] at h
  split at h
  · cases h
  · rename_i lo hi p hp
    exact ⟨wordOf lo hi, p, by rw [loByte_wordOf, hiByte_wordOf, hp], by rw [loByte_wordOf, hiByte_wordOf, h]⟩

theorem eq_two_of_ne {m : BitVec 2} (h0 : m ≠ 0) (h1 : m ≠ 1) (h3 : m ≠ 3) : m = 2 := by
  revert m
  decide

/-- The ModRM byte and the displacement read after it are the fields of the memory operand decoded from them. -/
theorem decodeMem_ok {m : Byte} {k : MemForm → Cursor σ → Decoded σ} (hm : modField m ≠ 3)
    (h : decodeMem F m c k = .ok i d) : ∃ mf fs c1, k mf c1 = .ok i d ∧ Reads F c.pos fs c1.pos ∧
      mf.wellFormed = true ∧ fieldsMem (regField m) mf = .byte m :: fs := by
  have hfields {x : BitVec 2} {r : BitVec 3} (hx : modField m = x) (hr : rmField m = r) :
      mkModRM x (regField m) r = m := by
    subst hx hr
    exact mkModRM_fields m
  have hbase : rmField m = (Base.ofCode (rmField m)).code := (Base.code_ofCode _).symm
  rw [decodeMem] at h
  split at h
  · rename_i h0
    split at h
    · rename_i h6
      obtain ⟨off, p, hp, hk⟩ := fetch16_ok h
      exact ⟨.direct off, [.word off], _, hk, ⟨p, hp, rfl⟩, rfl, by rw [fieldsMem, hfields h0 h6]⟩
    · rename_i h6
      refine ⟨.noDisp _, [], c, h, rfl, ?_, by rw [fieldsMem, hfields h0 hbase]⟩
      simpa [MemForm.wellFormed, ← Base.code_eq_six, Base.code_ofCode] using h6
  · split at h
    · rename_i h1
      obtain ⟨b, p, hp, hk⟩ := fetch8_ok h
      exact ⟨.disp8 _ b, [.byte b], _, hk, ⟨p, hp, rfl⟩, rfl, by rw [fieldsMem, hfields h1 hbase]⟩
    · rename_i h0 h1
      obtain ⟨w, p, hp, hk⟩ := fetch16_ok h
      exact ⟨.disp16 _ w, [.word w], _, hk, ⟨p, hp, rfl⟩, rfl,
        by rw [fieldsMem, hfields (eq_two_of_ne h0 h1 hm) hbase]⟩

theorem decodeRM_ok (op : Byte) {m : Byte} {k : RM (BitVec 3) → Cursor σ → Decoded σ}
    (h : decodeRM F m c k = .ok i d) : ∃ e fs c1, k e c1 = .ok i d ∧ Reads F c.pos fs c1.pos ∧
      e.wellFormed = true ∧ fieldsRM op (regField m) e = .byte op :: .byte m :: fs := by
  rw [decodeRM] at h
  split at h
  · rename_i h3
    refine ⟨.reg (rmField m), [], c, h, rfl, rfl, ?_⟩
    rw [fieldsRM, ← h3, mkModRM_fields]
  · rename_i h3
    obtain ⟨mf, fs, c1, hk, hr, hw, hf⟩ := decodeMem_ok h3 h
    exact ⟨.mem mf, fs, c1, hk, hr, hw, by rw [fieldsRM, hf]⟩

/-- What an entry of the opcode map makes of the fields it asks for is well formed and encoded by these fields, after the
opcode byte `op`. -/
def OpEntry.Sound (op : Byte) : OpEntry → Prop
  | .plain i => i.wellFormed = true ∧ encodeFields i = [.byte op]
  | .imm8 mk => ∀ ib, (mk ib).wellFormed = true ∧ encodeFields (mk ib) = [.byte op, .byte ib]
  | .imm16 mk => ∀ iw, (mk iw).wellFormed = true ∧ encodeFields (mk iw) = [.byte op, .word iw]
  | .far mk => ∀ off sel, (mk off sel).wellFormed = true ∧
      encodeFields (mk off sel) = [.byte op, .word off, .word sel]
  | .modrm pick => ∀ g mk, pick g = some mk → ∀ e, e.wellFormed = true →
      (mk e).wellFormed = true ∧ encodeFields (mk e) = fieldsRM op g e
  | .modrmMem mk => ∀ g m, m.wellFormed = true →
      (mk g m).wellFormed = true ∧ encodeFields (mk g m) = .byte op :: fieldsMem g m
  | .modrmImm8 pick => ∀ g mk, pick g = some mk → ∀ e ib, e.wellFormed = true →
      (mk e ib).wellFormed = true ∧ encodeFields (mk e ib) = fieldsRM op g e ++ [.byte ib]
  | .modrmImm16 pick => ∀ g mk, pick g = some mk → ∀ e iw, e.wellFormed = true →
      (mk e iw).wellFormed = true ∧ encodeFields (mk e iw) = fieldsRM op g e ++ [.word iw]

theorem decodeEntry_ok {op : Byte} {x : OpEntry} (hx : x.Sound op) (h : decodeEntry F op c x = .ok i d) :
    i.wellFormed = true ∧ ∃ fs, encodeFields i = .byte op :: fs ∧ Reads F c.pos fs d.pos := by
  cases x
  all_goals rw [decodeEntry] at h
  case plain j =>
    cases h
    exact ⟨hx.1, [], hx.2, rfl⟩
  case imm8 mk =>
    obtain ⟨ib, p, hp, hk⟩ := fetch8_ok h
    cases hk
    exact ⟨(hx ib).1, _, (hx ib).2, p, hp, rfl⟩
  case imm16 mk =>
    obtain ⟨iw, p, hp, hk⟩ := fetch16_ok h
    cases hk
    exact ⟨(hx iw).1, _, (hx iw).2, p, hp, rfl⟩
  case far mk =>
    obtain ⟨off, p, hp, h⟩ := fetch16_ok h
    obtain ⟨sel, p2, hp2, hk⟩ := fetch16_ok h
    cases hk
    exact ⟨(hx off sel).1, _, (hx off sel).2, p, hp, p2, hp2, rfl⟩
  case modrm pick =>
    obtain ⟨m, p, hp, h⟩ := fetch8_ok h
    split at h
    · cases h
    · rename_i mk hg
      obtain ⟨e, fs, c1, hk, hr, hw, hf⟩ := decodeRM_ok op h
      cases hk
      obtain ⟨hwf, henc⟩ := hx _ mk hg e hw
      exact ⟨hwf, .byte m :: fs, henc.trans hf, p, hp, hr⟩
  case modrmMem mk =>
    obtain ⟨m, p, hp, h⟩ := fetch8_ok h
    split at h
    · cases h
    · rename_i h3
      obtain ⟨mf, fs, c1, hk, hr, hw, hf⟩ := decodeMem_ok h3 h
      cases hk
      obtain ⟨hwf, henc⟩ := hx (regField m) mf hw
      exact ⟨hwf, .byte m :: fs, by rw [henc, hf], p, hp, hr⟩
  case modrmImm8 pick =>
    obtain ⟨m, p, hp, h⟩ := fetch8_ok h
    split at h
    · cases h
    · rename_i mk hg
      obtain ⟨e, fs, c1, h, hr, hw, hf⟩ := decodeRM_ok op h
      obtain ⟨ib, p2, hp2, hk⟩ := fetch8_ok h
      cases hk
      obtain ⟨hwf, henc⟩ := hx _ mk hg e ib hw
      exact ⟨hwf, .byte m :: (fs ++ [Field.byte ib]), by rw [henc, hf]; rfl, p, hp,
        reads_append.mpr ⟨_, hr, p2, hp2, rfl⟩⟩
  case modrmImm16 pick =>
    obtain ⟨m, p, hp, h⟩ := fetch8_ok h
    split at h
    · cases h
    · rename_i mk hg
      obtain ⟨e, fs, c1, h, hr, hw, hf⟩ := decodeRM_ok op h
      obtain ⟨iw, p2, hp2, hk⟩ := fetch16_ok h
      cases hk
      obtain ⟨hwf, henc⟩ := hx _ mk hg e iw hw
      exact ⟨hwf, .byte m :: (fs ++ [Field.word iw]), by rw [henc, hf]; rfl, p, hp,
        reads_append.mpr ⟨_, hr, p2, hp2, rfl⟩⟩

end Reading

/-! ### What holds of every entry of the opcode map, row by row -/

section Rows

variable {P : Byte → OpEntry → Prop}

/-- Every entry of a row whose first byte is `n` has the property, with its byte. -/
def RowAll (P : Byte → OpEntry → Prop) : Nat → List (Option OpEntry) → Prop
  | _, [] => True
  | n, none :: row => RowAll P (n + 1) row
  | n, some x :: row => P (BitVec.ofNat 8 n) x ∧ RowAll P (n + 1) row

theorem RowAll.getD {n k : Nat} {row : List (Option OpEntry)} {x : OpEntry} (h : RowAll P n row)
    (hx : row.getD k none = some x) : P (BitVec.ofNat 8 (n + k)) x := by
  induction row generalizing n k with
  | nil => cases hx
  | cons y row ih =>
    cases k with
    | zero =>
      obtain rfl : y = some x := hx
      exact h.1
    | succ k =>
      rw [Nat.add_succ, ← Nat.succ_add]
      cases y with
      | none => exact ih h hx
      | some y => exact ih h.2 hx

theorem RowAll.append {n m : Nat} {row row' : List (Option OpEntry)} (h : RowAll P n row)
    (h' : RowAll P m row') (hm : m = n + row.length) : RowAll P n (row ++ row') := by
  induction row generalizing n with
  | nil =>
    obtain rfl : m = n := hm
    exact h'
  | cons y row ih =>
    have hm' : m = n + 1 + row.length := by rw [hm, List.length_cons]; omega
    cases y with
    | none => exact ih h hm'
    | some y => exact ⟨h.1, ih h.2 hm'⟩

/-- Rows 0 to 3 of the map: two operations, each with two more bytes after its six. -/
theorem RowAll.aluRow {op op' : AluOp} {t t' : List (Option OpEntry)}
    (h : ∀ o, RowAll P (aluNumber o * 8) (aluEntries o)) (hop : aluNumber op' = aluNumber op + 1)
    (ht : RowAll P (aluNumber op * 8 + 6) t) (hl : t.length = 2) (ht' : RowAll P (aluNumber op' * 8 + 6) t') :
    RowAll P (aluNumber op * 8) (aluEntries op ++ t ++ aluEntries op' ++ t') := by
  have hsix (o : AluOp) : (aluEntries o).length = 6 := rfl
  refine .append (.append (.append (h op) ht ?_) (h op') ?_) ht' ?_
  all_goals simp only [List.length_append, hsix, hl, hop]
  all_goals omega

/-- The property holds in every row, sixteen bytes each, the first of them row `n`. -/
def RowsAll (P : Byte → OpEntry → Prop) : Nat → List (List (Option OpEntry)) → Prop
  | _, [] => True
  | n, row :: rows => RowAll P (16 * n) row ∧ RowsAll P (n + 1) rows

theorem RowsAll.getD {n k : Nat} {rows : List (List (Option OpEntry))} (h : RowsAll P n rows) :
    RowAll P (16 * (n + k)) (rows.getD k []) := by
  induction rows generalizing n k with
  | nil => exact trivial
  | cons row rows ih =>
    cases k with
    | zero => exact h.1
    | succ k =>
      rw [Nat.add_succ, ← Nat.succ_add]
      exact ih h.2

/-- What holds in every row holds of whatever the map gives for a byte. -/
theorem opcodeMap_all (h : RowsAll P 0 opRows) {op : Byte} {x : OpEntry} (hx : opcodeMap op = some x) : P op x := by
  have hp := (h.getD (k := (op.extractLsb' 4 4).toNat)).getD hx
  have hop : op = BitVec.ofNat 8 (16 * (0 + (op.extractLsb' 4 4).toNat) + (op.extractLsb' 0 4).toNat) := by
    have := op.isLt
    refine BitVec.eq_of_toNat_eq ?_
    simp only [BitVec.toNat_ofNat, BitVec.extractLsb'_toNat, Nat.shiftRight_eq_div_pow]
    omega
  exact hop ▸ hp

end Rows

/-! ### The entries are sound -/

theorem RM.map_ofCode_code8 (e : RM (BitVec 3)) : (e.map Reg8.ofCode).map Reg8.code = e := by
  simp [Reg8.code_ofCode]

theorem RM.map_ofCode_code16 (e : RM (BitVec 3)) : (e.map Reg16.ofCode).map Reg16.code = e := by
  simp [Reg16.code_ofCode]

theorem AluOp.ofNat_aluNumber_ofCode (g : BitVec 3) : BitVec.ofNat 3 (aluNumber (AluOp.ofCode g)) = g := by
  rw [AluOp.ofNat_aluNumber, AluOp.code_ofCode]

theorem Instr.wellFormed_alu_of {op : AluOp} {f : AluForm} (h : f.wellFormed = true) :
    (Instr.alu op f).wellFormed = true :=
  (Instr.wellFormed_alu op f).trans h

theorem aluEntries_sound (op : AluOp) : RowAll OpEntry.Sound (aluNumber op * 8) (aluEntries op) := by
  refine ⟨?rm8r8, ?rm16r16, ?r8rm8, ?r16rm16, fun ib => ⟨Instr.wellFormed_alu op _, encodeFields_alu op _⟩,
    fun iw => ⟨Instr.wellFormed_alu op _, encodeFields_alu op _⟩, trivial⟩
  case rm8r8 =>
    rintro g _ ⟨⟩ e he
    refine ⟨Instr.wellFormed_alu_of ((RM.wellFormed_map _ e).trans he), ?_⟩
    rw [encodeFields_alu, aluEncoding, Reg8.code_ofCode, RM.map_ofCode_code8]
    rfl
  case rm16r16 =>
    rintro g _ ⟨⟩ e he
    refine ⟨Instr.wellFormed_alu_of ((RM.wellFormed_map _ e).trans he), ?_⟩
    rw [encodeFields_alu, aluEncoding, Reg16.code_ofCode, RM.map_ofCode_code16]
  case r8rm8 =>
    rintro g _ ⟨⟩ e he
    refine ⟨Instr.wellFormed_alu_of ((RM.wellFormed_map _ e).trans he), ?_⟩
    rw [encodeFields_alu, aluEncoding, Reg8.code_ofCode, RM.map_ofCode_code8]
  case r16rm16 =>
    rintro g _ ⟨⟩ e he
    refine ⟨Instr.wellFormed_alu_of ((RM.wellFormed_map _ e).trans he), ?_⟩
    rw [encodeFields_alu, aluEncoding, Reg16.code_ofCode, RM.map_ofCode_code16]

/-- The immediate groups, MOV and LEA; MOV with a segment register takes only the reg values that name one, and not CS as
its destination (R134). -/
theorem opRow8_sound : RowAll OpEntry.Sound 0x80 opRow8 := by
  refine ⟨?op80, ?op81, ?op83, ?op88, ?op89, ?op8A, ?op8B, ?op8C, ?op8D, ?op8E, trivial⟩
  case op80 =>
    rintro g _ ⟨⟩ e ib he
    refine ⟨Instr.wellFormed_alu_of ((RM.wellFormed_map _ e).trans he), ?_⟩
    rw [encodeFields_alu, aluEncoding, AluOp.ofNat_aluNumber_ofCode, RM.map_ofCode_code8]
    rfl
  case op81 =>
    rintro g _ ⟨⟩ e iw he
    refine ⟨Instr.wellFormed_alu_of ((RM.wellFormed_map _ e).trans he), ?_⟩
    rw [encodeFields_alu, aluEncoding, AluOp.ofNat_aluNumber_ofCode, RM.map_ofCode_code16]
    rfl
  case op83 =>
    rintro g _ ⟨⟩ e ib he
    refine ⟨Instr.wellFormed_alu_of ((RM.wellFormed_map _ e).trans he), ?_⟩
    rw [encodeFields_alu, aluEncoding, AluOp.ofNat_aluNumber_ofCode, RM.map_ofCode_code16]
    rfl
  case op88 =>
    rintro g _ ⟨⟩ e he
    refine ⟨(RM.wellFormed_map _ e).trans he, ?_⟩
    rw [encodeFields, Reg8.code_ofCode, RM.map_ofCode_code8]
    rfl
  case op89 =>
    rintro g _ ⟨⟩ e he
    refine ⟨(RM.wellFormed_map _ e).trans he, ?_⟩
    rw [encodeFields, Reg16.code_ofCode, RM.map_ofCode_code16]
    rfl
  case op8A =>
    rintro g _ ⟨⟩ e he
    refine ⟨(RM.wellFormed_map _ e).trans he, ?_⟩
    rw [encodeFields, Reg8.code_ofCode, RM.map_ofCode_code8]
    rfl
  case op8B =>
    rintro g _ ⟨⟩ e he
    refine ⟨(RM.wellFormed_map _ e).trans he, ?_⟩
    rw [encodeFields, Reg16.code_ofCode, RM.map_ofCode_code16]
    rfl
  case op8C =>
    intro g mk hmk e he
    obtain ⟨sr, hsr, rfl⟩ := Option.map_eq_some_iff.mp hmk
    refine ⟨(RM.wellFormed_map _ e).trans he, ?_⟩
    rw [encodeFields, SegReg.code_of_ofCode hsr, RM.map_ofCode_code16]
    rfl
  case op8D =>
    refine fun g m hm => ⟨hm, ?_⟩
    rw [encodeFields, Reg16.code_ofCode]
    rfl
  case op8E =>
    intro g mk hmk e he
    obtain ⟨sr, hsr, rfl⟩ := Option.map_eq_some_iff.mp hmk
    obtain ⟨hcode, hcs⟩ := SegReg.code_of_ofLoadCode hsr
    refine ⟨by simp [Instr.wellFormed, hcs, he], ?_⟩
    rw [encodeFields, hcode, RM.map_ofCode_code16]
    rfl

/-- The immediate forms of MOV take reg 0 alone (R134). -/
theorem opRowC_sound : RowAll OpEntry.Sound 0xC0 opRowC := by
  refine ⟨fun iw => ⟨rfl, rfl⟩, ⟨rfl, rfl⟩, ?opC6, ?opC7, fun iw => ⟨rfl, rfl⟩, ⟨rfl, rfl⟩, fun n => ⟨rfl, rfl⟩, trivial⟩
  case opC6 =>
    intro g mk hmk e ib he
    obtain ⟨rfl, ⟨⟩⟩ := Option.ite_none_right_eq_some.mp hmk
    refine ⟨(RM.wellFormed_map _ e).trans he, ?_⟩
    rw [encodeFields, RM.map_ofCode_code8]
    rfl
  case opC7 =>
    intro g mk hmk e iw he
    obtain ⟨rfl, ⟨⟩⟩ := Option.ite_none_right_eq_some.mp hmk
    refine ⟨(RM.wellFormed_map _ e).trans he, ?_⟩
    rw [encodeFields, RM.map_ofCode_code16]
    rfl

/-- F6 takes reg 4 alone, F7 reg 4 and 6 (R134). -/
theorem opRowF_sound : RowAll OpEntry.Sound 0xF0 opRowF := by
  refine ⟨⟨rfl, rfl⟩, ⟨rfl, rfl⟩, ?opF6, ?opF7, ⟨rfl, rfl⟩, ⟨rfl, rfl⟩, ⟨rfl, rfl⟩, ⟨rfl, rfl⟩, ⟨rfl, rfl⟩, ⟨rfl, rfl⟩,
    trivial⟩
  case opF6 =>
    intro g mk hmk e he
    obtain ⟨rfl, ⟨⟩⟩ := Option.ite_none_right_eq_some.mp hmk
    refine ⟨(RM.wellFormed_map _ e).trans he, ?_⟩
    rw [encodeFields, RM.map_ofCode_code8]
    rfl
  case opF7 =>
    intro g mk hmk e he
    dsimp only at hmk
    split at hmk
    · subst g
      cases hmk
      refine ⟨(RM.wellFormed_map _ e).trans he, ?_⟩
      rw [encodeFields, RM.map_ofCode_code16]
      rfl
    · obtain ⟨rfl, ⟨⟩⟩ := Option.ite_none_right_eq_some.mp hmk
      refine ⟨(RM.wellFormed_map _ e).trans he, ?_⟩
      rw [encodeFields, RM.map_ofCode_code16]
      rfl

theorem opRows_sound : RowsAll OpEntry.Sound 0 opRows := by
  refine ⟨.aluRow aluEntries_sound (op := .add) (op' := .or) rfl ⟨⟨rfl, rfl⟩, ⟨rfl, rfl⟩, trivial⟩ rfl
      ⟨⟨rfl, rfl⟩, trivial⟩,
    .aluRow aluEntries_sound (op := .adc) (op' := .sbb) rfl ⟨⟨rfl, rfl⟩, ⟨rfl, rfl⟩, trivial⟩ rfl
      ⟨⟨rfl, rfl⟩, ⟨rfl, rfl⟩, trivial⟩,
    .aluRow aluEntries_sound (op := .and) (op' := .sub) rfl ⟨⟨rfl, rfl⟩, trivial⟩ rfl ⟨⟨rfl, rfl⟩, trivial⟩,
    .aluRow aluEntries_sound (op := .xor) (op' := .cmp) rfl ⟨⟨rfl, rfl⟩, trivial⟩ rfl ⟨⟨rfl, rfl⟩, trivial⟩,
    trivial, ?row5, ?row6, ?row7, opRow8_sound, ?row9, ?rowA, ?rowB, opRowC_sound, trivial, ?rowE, opRowF_sound, trivial⟩
  case row5 =>
    repeat refine ⟨⟨rfl, rfl⟩, ?_⟩
    trivial
  case row6 => exact ⟨⟨rfl, rfl⟩, ⟨rfl, rfl⟩, trivial⟩
  case row7 =>
    repeat refine ⟨fun d => ⟨rfl, rfl⟩, ?_⟩
    trivial
  case row9 => exact ⟨⟨rfl, rfl⟩, fun off sel => ⟨rfl, rfl⟩, trivial⟩
  case rowA =>
    exact ⟨fun off => ⟨rfl, rfl⟩, fun off => ⟨rfl, rfl⟩, fun off => ⟨rfl, rfl⟩, fun off => ⟨rfl, rfl⟩,
      ⟨rfl, rfl⟩, ⟨rfl, rfl⟩, ⟨rfl, rfl⟩, trivial⟩
  case rowB =>
    repeat refine ⟨fun v => ⟨rfl, rfl⟩, ?_⟩
    trivial
  case rowE =>
    exact ⟨fun d => ⟨rfl, rfl⟩, fun d => ⟨rfl, rfl⟩, fun off sel => ⟨rfl, rfl⟩, fun d => ⟨rfl, rfl⟩, trivial⟩

/-! ### Every accepted instruction -/

/-- Whatever the source of the bytes: what the decoder accepts is well formed, and it read the fields of its encoding. -/
theorem decodeFrom_ok {σ : Type} {F : Fetcher σ} {c d : Cursor σ} {i : Instr} (h : decodeFrom F c = .ok i d) :
    i.wellFormed = true ∧ Reads F c.pos (encodeFields i) d.pos := by
  obtain ⟨op, p, hp, h⟩ := fetch8_ok h
  split at h
  · cases h
  · rename_i x hx
    obtain ⟨hw, fs, hf, hr⟩ := decodeEntry_ok (opcodeMap_all opRows_sound hx) h
    exact ⟨hw, hf ▸ ⟨p, hp, hr⟩⟩

theorem listFetcher_next8 {bs rest : List Byte} {b : Byte} (h : listFetcher.next8 bs = some (b, rest)) :
    bs = b :: rest := by
  cases bs <;> cases h
  rfl

theorem listFetcher_next16 {bs rest : List Byte} {lo hi : Byte} (h : listFetcher.next16 bs = some (lo, hi, rest)) :
    bs = lo :: hi :: rest := by
  obtain _ | ⟨b, _ | ⟨b', bs⟩⟩ := bs <;> cases h
  rfl

/-- The converse of `reads_list`. -/
theorem eq_append_of_reads_list {bs rest : List Byte} {fs : List Field} (h : Reads listFetcher bs fs rest) :
    bs = fieldBytes fs ++ rest := by
  induction fs generalizing bs with
  | nil => exact h
  | cons f fs ih =>
    cases f with
    | byte b =>
      obtain ⟨p, hp, h⟩ := h
      rw [listFetcher_next8 hp, ih h]
      rfl
    | word w =>
      obtain ⟨p, hp, h⟩ := h
      rw [listFetcher_next16 hp, ih h]
      rfl

/-- Settles O15: every entry of the opcode map is sound, and a list that was read is made of the bytes read. -/
theorem decodedBytesAreTheEncoding : Obligations.DecodedBytesAreTheEncoding := by
  intro bs i rest h
  obtain ⟨d, hd, rfl⟩ := decode_eq_ok.mp h
  obtain ⟨hw, hr⟩ := decodeFrom_ok hd
  exact ⟨hw, eq_append_of_reads_list hr⟩

end Sys2Proof
end

section
/-! What the decoder rejects (30_encoding.md R133 to R135): a byte the opcode map does not hold, a ModRM byte its entry
does not take, and, where the bytes can end, their end; nothing else. -/

namespace Sys2Proof

open Sys2Proof.Machine

variable {σ : Type} {F : Fetcher σ} {p q : σ} {c d : Cursor σ} {seen : List Byte} {op b m : Byte} {x : OpEntry}

/-! ### Where an entry stops the decoder -/

/-- The entry makes no instruction of this ModRM byte. -/
def OpEntry.rejects : OpEntry → Byte → Bool
  | .plain _, _ => false
  | .imm8 _, _ => false
  | .imm16 _, _ => false
  | .far _, _ => false
  | .modrm pick, m => (pick (regField m)).isNone
  | .modrmMem _, m => modField m == 3
  | .modrmImm8 pick, m => (pick (regField m)).isNone
  | .modrmImm16 pick, m => (pick (regField m)).isNone

/-- R134: a rejected ModRM byte stops the decoder before anything behind it is fetched. -/
theorem decodeEntry_of_rejects (hx : x.rejects m = true) (hm : F.next8 p = some (m, q)) :
    decodeEntry F op ⟨p, seen⟩ x = .bad (.illegalModRM op m) ⟨q, seen ++ [m]⟩ := by
  cases x
  case modrmMem mk => rw [decodeEntry, fetch8_of_next hm, if_pos (by simpa [OpEntry.rejects] using hx)]
  case modrm pick | modrmImm8 pick | modrmImm16 pick =>
    rw [decodeEntry, fetch8_of_next hm, Option.isNone_iff_eq_none.mp hx]
  all_goals cases hx

/-- Decoding stops, if it does, because the bytes end. -/
def Decoded.stopsAtEnd : Decoded σ → Prop
  | .ok _ _ => True
  | .bad e _ => e = .truncated

theorem fetch8_stopsAtEnd {k : Byte → Cursor σ → Decoded σ} (hk : ∀ b c, (k b c).stopsAtEnd) :
    (fetch8 F c k).stopsAtEnd := by
  rw [fetch8]
  split
  · rfl
  · exact hk _ _

theorem fetch16_stopsAtEnd {k : Word → Cursor σ → Decoded σ} (hk : ∀ w c, (k w c).stopsAtEnd) :
    (fetch16 F c k).stopsAtEnd := by
  rw [fetch16]
  split
  · rfl
  · exact hk _ _

theorem decodeMem_stopsAtEnd {k : MemForm → Cursor σ → Decoded σ} (hk : ∀ mf c, (k mf c).stopsAtEnd) :
    (decodeMem F m c k).stopsAtEnd := by
  rw [decodeMem]
  split
  · split
    · exact fetch16_stopsAtEnd fun _ _ => hk _ _
    · exact hk _ _
  · split
    · exact fetch8_stopsAtEnd fun _ _ => hk _ _
    · exact fetch16_stopsAtEnd fun _ _ => hk _ _

theorem decodeRM_stopsAtEnd {k : RM (BitVec 3) → Cursor σ → Decoded σ} (hk : ∀ e c, (k e c).stopsAtEnd) :
    (decodeRM F m c k).stopsAtEnd := by
  rw [decodeRM]
  split
  · exact hk _ _
  · exact decodeMem_stopsAtEnd fun _ _ => hk _ _

/-- An entry that takes the ModRM byte before it, if there is one, goes on to the end of the instruction. -/
theorem decodeEntry_stopsAtEnd (hx : ∀ m q, F.next8 c.pos = some (m, q) → x.rejects m = false) :
    (decodeEntry F op c x).stopsAtEnd := by
  have hmodrm {k : Byte → Cursor σ → Decoded σ} (hk : ∀ m c, x.rejects m = false → (k m c).stopsAtEnd) :
      (fetch8 F c k).stopsAtEnd := by
    rw [fetch8]
    split
    · rfl
    · exact hk _ _ (hx _ _ (by assumption))
  cases x
  all_goals rw [decodeEntry]
  case plain i => trivial
  case imm8 mk => exact fetch8_stopsAtEnd fun _ _ => trivial
  case imm16 mk => exact fetch16_stopsAtEnd fun _ _ => trivial
  case far mk => exact fetch16_stopsAtEnd fun _ _ => fetch16_stopsAtEnd fun _ _ => trivial
  case modrm pick =>
    refine hmodrm fun m c hm => ?_
    obtain ⟨mk, hmk⟩ := Option.isSome_iff_exists.mp (Option.isNone_eq_false_iff.mp hm)
    rw [hmk]
    exact decodeRM_stopsAtEnd fun _ _ => trivial
  case modrmMem mk =>
    refine hmodrm fun m c hm => ?_
    rw [if_neg (by simpa [OpEntry.rejects] using hm)]
    exact decodeMem_stopsAtEnd fun _ _ => trivial
  case modrmImm8 pick =>
    refine hmodrm fun m c hm => ?_
    obtain ⟨mk, hmk⟩ := Option.isSome_iff_exists.mp (Option.isNone_eq_false_iff.mp hm)
    rw [hmk]
    exact decodeRM_stopsAtEnd fun _ _ => fetch8_stopsAtEnd fun _ _ => trivial
  case modrmImm16 pick =>
    refine hmodrm fun m c hm => ?_
    obtain ⟨mk, hmk⟩ := Option.isSome_iff_exists.mp (Option.isNone_eq_false_iff.mp hm)
    rw [hmk]
    exact decodeRM_stopsAtEnd fun _ _ => fetch16_stopsAtEnd fun _ _ => trivial

/-! ### The tables of the spec (R133, R134) -/

theorem opcodeMap_eq_none_iff (b : Byte) : opcodeMap b = none ↔ unadmitted b = true := by
  rw [← Option.isNone_iff_eq_none]
  revert b
  decide

/-- The entry rejects what the table of R134 calls illegal for its opcode byte. -/
def OpEntry.RejectsTable (op : Byte) (x : OpEntry) : Prop := ∀ m, x.rejects m = modrmIllegal op m

theorem aluEntries_rejectsTable (op : AluOp) : RowAll OpEntry.RejectsTable (aluNumber op * 8) (aluEntries op) := by
  cases op
  all_goals exact ⟨fun _ => rfl, fun _ => rfl, fun _ => rfl, fun _ => rfl, fun _ => rfl, fun _ => rfl, trivial⟩

/-- 8C, 8D and 8E are in the table. -/
theorem opRow8_rejectsTable : RowAll OpEntry.RejectsTable 0x80 opRow8 := by
  refine ⟨fun _ => rfl, fun _ => rfl, fun _ => rfl, fun _ => rfl, fun _ => rfl, fun _ => rfl, fun _ => rfl,
    ?op8C, ?op8D, ?op8E, trivial⟩
  all_goals
    unfold OpEntry.RejectsTable
    decide

/-- C6 and C7 are in the table. -/
theorem opRowC_rejectsTable : RowAll OpEntry.RejectsTable 0xC0 opRowC := by
  refine ⟨fun _ => rfl, fun _ => rfl, ?opC6, ?opC7, fun _ => rfl, fun _ => rfl, fun _ => rfl, trivial⟩
  all_goals
    unfold OpEntry.RejectsTable
    decide

/-- F6 and F7 are in the table. -/
theorem opRowF_rejectsTable : RowAll OpEntry.RejectsTable 0xF0 opRowF := by
  refine ⟨fun _ => rfl, fun _ => rfl, ?opF6, ?opF7, fun _ => rfl, fun _ => rfl, fun _ => rfl, fun _ => rfl,
    fun _ => rfl, fun _ => rfl, trivial⟩
  all_goals
    unfold OpEntry.RejectsTable
    decide

theorem opRows_rejectsTable : RowsAll OpEntry.RejectsTable 0 opRows := by
  have halu := aluEntries_rejectsTable
  refine ⟨.aluRow halu (op := .add) (op' := .or) rfl ⟨fun _ => rfl, fun _ => rfl, trivial⟩ rfl ⟨fun _ => rfl, trivial⟩,
    .aluRow halu (op := .adc) (op' := .sbb) rfl ⟨fun _ => rfl, fun _ => rfl, trivial⟩ rfl
      ⟨fun _ => rfl, fun _ => rfl, trivial⟩,
    .aluRow halu (op := .and) (op' := .sub) rfl ⟨fun _ => rfl, trivial⟩ rfl ⟨fun _ => rfl, trivial⟩,
    .aluRow halu (op := .xor) (op' := .cmp) rfl ⟨fun _ => rfl, trivial⟩ rfl ⟨fun _ => rfl, trivial⟩,
    trivial, ?row5, ?row6, ?row7, opRow8_rejectsTable, ?row9, ?rowA, ?rowB, opRowC_rejectsTable, trivial, ?rowE,
    opRowF_rejectsTable, trivial⟩
  all_goals
    repeat refine ⟨fun _ => rfl, ?_⟩
    trivial

theorem rejects_eq_modrmIllegal (hx : opcodeMap op = some x) (m : Byte) : x.rejects m = modrmIllegal op m :=
  opcodeMap_all opRows_rejectsTable hx m

/-- The opcode bytes the table speaks of are in the opcode map. -/
theorem exists_entry_of_modrmIllegal (h : modrmIllegal op m = true) : ∃ x, opcodeMap op = some x := by
  simp only [modrmIllegal, Bool.or_eq_true, Bool.and_eq_true, beq_iff_eq] at h
  obtain ⟨⟨⟨⟨⟨rfl, -⟩ | ⟨rfl, -⟩⟩ | ⟨rfl, -⟩⟩ | ⟨rfl | rfl, -⟩⟩ | ⟨rfl, -⟩⟩ | ⟨⟨rfl, -⟩, -⟩ := h
  all_goals exact ⟨_, rfl⟩

/-! ### Where the decoder stops -/

theorem decodeFrom_of_none (hx : opcodeMap op = none) (h : F.next8 p = some (op, q)) :
    decodeFrom F ⟨p, seen⟩ = .bad (.illegalOpcode op) ⟨q, seen ++ [op]⟩ := by
  rw [decodeFrom, fetch8_of_next h, hx]

theorem decodeFrom_of_some (hx : opcodeMap op = some x) (h : F.next8 p = some (op, q)) :
    decodeFrom F ⟨p, seen⟩ = decodeEntry F op ⟨q, seen ++ [op]⟩ x := by
  rw [decodeFrom, fetch8_of_next h, hx]

theorem decodeFrom_unadmitted (h : unadmitted b = true) (hr : Reads F p [.byte b] q) :
    decodeFrom F ⟨p, seen⟩ = .bad (.illegalOpcode b) ⟨q, seen ++ [b]⟩ := by
  obtain ⟨_, hb, rfl⟩ := hr
  exact decodeFrom_of_none ((opcodeMap_eq_none_iff b).mpr h) hb

theorem decodeFrom_modrmIllegal (h : modrmIllegal op m = true) (hr : Reads F p [.byte op, .byte m] q) :
    decodeFrom F ⟨p, seen⟩ = .bad (.illegalModRM op m) ⟨q, seen ++ [op, m]⟩ := by
  obtain ⟨_, hop, _, hm, rfl⟩ := hr
  obtain ⟨x, hx⟩ := exists_entry_of_modrmIllegal h
  rw [decodeFrom_of_some hx hop, decodeEntry_of_rejects ((rejects_eq_modrmIllegal hx m).trans h) hm, List.append_assoc]
  rfl

/-- The only ways decoding fails. -/
theorem decodeFrom_bad_cases {e : DecodeError} (hop : F.next8 p = some (op, q))
    (h : decodeFrom F ⟨p, seen⟩ = .bad e d) :
    e = .truncated ∨ (unadmitted op = true ∧ e = .illegalOpcode op) ∨
    ∃ m r, F.next8 q = some (m, r) ∧ modrmIllegal op m = true ∧ e = .illegalModRM op m := by
  cases hx : opcodeMap op with
  | none =>
    rw [decodeFrom_of_none hx hop] at h
    cases h
    exact .inr (.inl ⟨(opcodeMap_eq_none_iff op).mp hx, rfl⟩)
  | some x =>
    rw [decodeFrom_of_some hx hop] at h
    by_cases hr : ∃ m r, F.next8 q = some (m, r) ∧ x.rejects m = true
    · obtain ⟨m, r, hm, hr⟩ := hr
      rw [decodeEntry_of_rejects hr hm] at h
      cases h
      exact .inr (.inr ⟨m, r, hm, (rejects_eq_modrmIllegal hx m).symm.trans hr, rfl⟩)
    · have hs : (decodeEntry F op ⟨q, seen ++ [op]⟩ x).stopsAtEnd :=
        decodeEntry_stopsAtEnd fun m r hm => Bool.eq_false_of_not_eq_true fun hm' => hr ⟨m, r, hm, hm'⟩
      rw [h] at hs
      exact .inl hs

theorem decode_illegalOpcode_iff {rest : List Byte} :
    decode (b :: rest) = .error (.illegalOpcode op) ↔ op = b ∧ unadmitted b = true := by
  rw [decode_eq_error]
  constructor
  · rintro ⟨d, h⟩
    obtain h | ⟨hb, h⟩ | ⟨m, r, -, -, h⟩ := decodeFrom_bad_cases (q := rest) rfl h
    · cases h
    · cases h
      exact ⟨rfl, hb⟩
    · cases h
  · rintro ⟨rfl, hb⟩
    exact ⟨_, decodeFrom_unadmitted hb ⟨rest, rfl, rfl⟩⟩

theorem decode_illegalModRM_iff {rest : List Byte} {op' m' : Byte} :
    decode (op :: m :: rest) = .error (.illegalModRM op' m') ↔ op' = op ∧ m' = m ∧ modrmIllegal op m = true := by
  rw [decode_eq_error]
  constructor
  · rintro ⟨d, h⟩
    obtain h | ⟨-, h⟩ | ⟨m, r, ⟨⟩, hi, h⟩ := decodeFrom_bad_cases (q := m :: rest) rfl h
    · cases h
    · cases h
    · cases h
      exact ⟨rfl, rfl, hi⟩
  · rintro ⟨rfl, rfl, hi⟩
    exact ⟨_, decodeFrom_modrmIllegal hi ⟨m' :: rest, rfl, rest, rfl, rfl⟩⟩

end Sys2Proof
end

section
/-! The fetch of an instruction with its prefixes (30_encoding.md R130, R131; 40_cycle.md R203), and the Cycles that fail
to decode (60_exceptions.md R501). -/

namespace Sys2Proof.Machine

/-! ### Reading at CS:IP -/

/-- The fetch reads the fields that stand at CS:IP, and IP moves by their bytes. -/
theorem reads_of_holdsCode {s : State} {off : Word} {fs : List Field} (h : s.holdsCode off fs) :
    Reads s.fetcher ⟨off, s.bus⟩ fs ⟨off + BitVec.ofNat 16 (fieldBytes fs).length, (s.readCode off fs).bus⟩ := by
  induction fs generalizing s off with
  | nil => exact congrArg (FetchPos.mk · s.bus) (BitVec.add_zero off).symm
  | cons f fs ih =>
    have hadd (k n : Nat) : off + BitVec.ofNat 16 k + BitVec.ofNat 16 n = off + BitVec.ofNat 16 (n + k) := by
      rw [BitVec.add_assoc, ← BitVec.ofNat_add, Nat.add_comm]
    cases f with
    | byte b =>
      obtain ⟨rfl, h⟩ := h
      have hr := ih h
      change Reads s.fetcher _ fs ⟨off + BitVec.ofNat 16 1 + _, _⟩ at hr
      rw [hadd] at hr
      exact ⟨_, rfl, hr⟩
    | word w =>
      obtain ⟨rfl, h⟩ := h
      have hr := ih h
      change Reads s.fetcher _ fs ⟨off + BitVec.ofNat 16 2 + _, _⟩ at hr
      rw [hadd] at hr
      exact ⟨_, rfl, hr⟩

/-! ### The loop over the prefixes (R130) -/

section Loop

variable {σ : Type} {F : Fetcher σ} {p q : σ} {c d : Cursor σ} {seen : List Byte} {i : Instr}

theorem Instr.wellFormed_of_isPrefix (h : i.isPrefix = true) : i.wellFormed = true := by
  unfold Instr.isPrefix at h
  split at h
  on_goal 8 => cases h
  all_goals rfl

/-- What the fetch gives when the prefixes `ps` stand before it. -/
def Fetched.withPrefixes (ps : List Instr) : Fetched σ → Fetched σ
  | .ok qs i c => .ok (ps ++ qs) i c
  | .illegal c => .illegal c

/-- As long as there is room for them, prefixes are read one by one, and the loop goes on behind them. -/
theorem prefixLoop_prefixes {ps : List Instr} (hp : ∀ i ∈ ps, i.isPrefix = true) (room : Nat)
    (h : Reads F p (ps.flatMap encodeFields) q) : prefixLoop F (ps.length + room) ⟨p, seen⟩ =
      (prefixLoop F room ⟨q, seen ++ ps.flatMap encode⟩).withPrefixes ps := by
  induction ps generalizing p seen with
  | nil =>
    obtain rfl : p = q := h
    rw [List.flatMap_nil, List.append_nil, List.length_nil, Nat.zero_add]
    cases prefixLoop F room ⟨p, seen⟩ <;> rfl
  | cons i ps ih =>
    obtain ⟨r, hi, hps⟩ := reads_append.mp h
    have hpre : i.isPrefix = true := hp i List.mem_cons_self
    have hloop := ih (seen := seen ++ encode i) (fun j hj => hp j (List.mem_cons_of_mem i hj)) hps
    rw [List.length_cons, Nat.add_right_comm, prefixLoop, decodeFrom_encode (Instr.wellFormed_of_isPrefix hpre) hi]
    simp only [hpre, if_true, hloop, List.flatMap_cons, List.append_assoc]
    cases prefixLoop F room ⟨q, seen ++ (encode i ++ ps.flatMap encode)⟩ <;> rfl

theorem prefixLoop_of_bad {e : DecodeError} (h : decodeFrom F c = .bad e d) (room : Nat) :
    prefixLoop F room c = .illegal d := by
  rw [prefixLoop, h]

theorem prefixLoop_no_room (h : decodeFrom F c = .ok i d) (hi : i.isPrefix = true) :
    prefixLoop F 0 c = .illegal d := by
  rw [prefixLoop, h]
  exact if_pos hi

end Loop

/-! ### Cycles that fail to decode (R501) -/

theorem decodeFails_of_illegal {s : State} {q : FetchPos} {bytes : List Byte} (hr : s.ready)
    (h : s.fetchCycle = .illegal ⟨q, bytes⟩) : decodeFails bytes s := by
  have hc := cycle_of_illegal hr h
  obtain ⟨hram, hdev⟩ := fetchCycle_reads s
  rw [h] at hram hdev
  exact ⟨step_of_faulted hc, s.decodeFail ⟨q, bytes⟩, hc, ⟨rfl, rfl, rfl, hram, hdev⟩, rfl, rfl⟩

/-- Behind up to 15 prefixes stand fields that fail to decode when the last of them has been read. -/
theorem decodeFails_of_bad {s : State} {ps : List Instr} {fs : List Field} {e : DecodeError} (hr : s.ready)
    (hp : ∀ p ∈ ps, p.isPrefix = true) (hl : ps.length ≤ 15) (h : s.holdsCode s.ip (ps.flatMap encodeFields ++ fs))
    (hbad : ∀ p q seen, Reads s.fetcher p fs q →
      decodeFrom s.fetcher ⟨p, seen⟩ = .bad e ⟨q, seen ++ fieldBytes fs⟩) :
    decodeFails (ps.flatMap encode ++ fieldBytes fs) s := by
  obtain ⟨q, hread⟩ : ∃ q, Reads s.fetcher ⟨s.ip, s.bus⟩ (ps.flatMap encodeFields ++ fs) q := ⟨_, reads_of_holdsCode h⟩
  obtain ⟨r, hps, hfs⟩ := reads_append.mp hread
  have hroom : Config.prefixLimit = ps.length + (15 - ps.length) := (Nat.add_sub_of_le hl).symm
  refine decodeFails_of_illegal (q := q) hr ?_
  rw [State.fetchCycle, hroom, prefixLoop_prefixes hp _ hps, prefixLoop_of_bad (hbad _ _ _ hfs)]
  rfl

/-- Settles O9: the opcode map is the table of R133, and the Cycle stops at the byte. -/
theorem unadmittedOpcodesRaiseIllegalOpcode : Obligations.UnadmittedOpcodesRaiseIllegalOpcode :=
  ⟨fun _ _ _ => decode_illegalOpcode_iff, fun _ _ _ hr hp hl hb h =>
    decodeFails_of_bad hr hp hl h fun _ _ _ => decodeFrom_unadmitted hb⟩

/-- Settles O10: the entries reject what the table of R134 lists, and the Cycle stops at the ModRM byte. -/
theorem illegalModRMValuesRaiseIllegalOpcode : Obligations.IllegalModRMValuesRaiseIllegalOpcode :=
  ⟨fun _ _ _ _ _ => decode_illegalModRM_iff, fun _ _ _ _ hr hp hl hm h =>
    decodeFails_of_bad hr hp hl h fun _ _ _ => decodeFrom_modrmIllegal hm⟩

/-- Settles O11: fifteen prefixes leave no room for the last. -/
theorem theSixteenthPrefixRaisesIllegalOpcode : Obligations.TheSixteenthPrefixRaisesIllegalOpcode := by
  intro s ps hr hl hp h
  obtain ⟨qs, i, rfl⟩ : ∃ qs i, ps = qs ++ [i] := by
    have hne : ps ≠ [] := List.ne_nil_of_length_eq_add_one hl
    exact ⟨_, _, (List.dropLast_append_getLast hne).symm⟩
  have hqs : qs.length + 0 = Config.prefixLimit := by simpa [Config.prefixLimit] using hl
  have hi : i.isPrefix = true := hp i (by simp)
  rw [List.flatMap_append, List.flatMap_singleton] at h ⊢
  obtain ⟨q, hread⟩ : ∃ q, Reads s.fetcher ⟨s.ip, s.bus⟩ (qs.flatMap encodeFields ++ encodeFields i) q :=
    ⟨_, reads_of_holdsCode h⟩
  obtain ⟨r, hfirst, hlast⟩ := reads_append.mp hread
  refine decodeFails_of_illegal (q := q) hr ?_
  rw [State.fetchCycle, ← hqs, prefixLoop_prefixes (fun j hj => hp j (List.mem_append_left _ hj)) 0 hfirst,
    prefixLoop_no_room (decodeFrom_encode (Instr.wellFormed_of_isPrefix hi) hlast) hi]
  rfl

/-! ### What the prefixes do (R130, R131) -/

theorem runPrefixes_cons {i : Instr} {ps : List Instr} {s t : State} (h : exec i s = .next t) :
    runPrefixes (i :: ps) s = runPrefixes ps t := by
  rw [runPrefixes, h]

/-- Settles O7: induction over the prefixes, each an override or the repeat byte (`Instr.prefix_cases`). -/
theorem prefixesSetTheSegmentAndTheRepeatFlag : Obligations.PrefixesSetTheSegmentAndTheRepeatFlag := by
  refine ⟨fun s => ⟨rfl, rfl, rfl, rfl, rfl, rfl, rfl⟩, fun ps s hp => ?_⟩
  induction ps generalizing s with
  | nil => simp [runPrefixes, lastOverride]
  | cons i ps ih =>
    have hps := fun t => ih t fun j hj => hp j (List.mem_cons_of_mem i hj)
    obtain ⟨r, hr, hrep, hi⟩ | ⟨rfl, hi⟩ := Instr.prefix_cases (hp i List.mem_cons_self)
    · rw [runPrefixes_cons (hi s), hps]
      simp [State.overrideSeg, lastOverride, hr, beq_false_of_ne hrep]
    · rw [runPrefixes_cons (hi s), hps]
      simp [State.setRep, lastOverride, overrideOf]

end Sys2Proof.Machine
end

section
/-! Operands (30_encoding.md R126 to R129): register codes, offsets and segments of memory operands. -/

namespace Sys2Proof.Machine

/-! ### Offsets mod 2^16 (R127, R128) -/

theorem toNat_emod (w : Word) : (w.toNat : Int) = w.toNat % 65536 := by
  have := w.isLt
  omega

theorem toNat_sext16 (d : Byte) : ((sext16 d).toNat : Int) = d.toInt % 65536 := by
  have hd : (sext16 d).toInt = d.toInt := BitVec.toInt_signExtend_of_le (by decide)
  have hlt := (sext16 d).isLt
  rw [← hd, BitVec.toInt_eq_toNat_cond]
  split <;> omega

theorem Base.toNat_value (b : Base) (r : RegFile) : (b.value r).toNat = baseSum b r % 65536 := by
  cases b
  case bxsi | bxdi | bpsi | bpdi => exact BitVec.toNat_add _ _
  all_goals exact (Nat.mod_eq_of_lt (BitVec.isLt _)).symm

/-- A base and a displacement, each known mod 2^16. -/
theorem toNat_add_emod {x y : Word} {a : Nat} {b : Int} (hx : x.toNat = a % 65536) (hy : (y.toNat : Int) = b % 65536) :
    ((x + y).toNat : Int) = (a + b) % 65536 := by
  rw [BitVec.toNat_add, hx]
  omega

/-! ### The implicit-SS rule (R129) -/

theorem State.memSeg_eq (s : State) (m : MemForm) :
    s.memSeg m = if s.ovr then s.ads else if m.selectsSS then .ss else s.ads := by
  rw [State.memSeg]
  cases s.ovr <;> simp

theorem Base.selectsSS_iff (b : Base) : b.selectsSS = true ↔ b = .bpsi ∨ b = .bpdi ∨ b = .bp := by
  cases b <;> decide

theorem MemForm.ne_bp_of_wellFormed {b : Base} (h : (MemForm.noDisp b).wellFormed = true) : b ≠ .bp := by
  simpa [MemForm.wellFormed] using h

/-- Settles O57: form by form, from the base mod 2^16 and the bases that select SS. -/
theorem effectiveAddressesFollowTheBaseTable : Obligations.EffectiveAddressesFollowTheBaseTable := by
  intro s m hm
  rw [State.memSeg_eq]
  cases m with
  | noDisp b =>
    refine ⟨?_, ?_⟩
    · rw [MemForm.offset, Base.toNat_value]
      rfl
    · simp only [MemForm.selectsSS, Base.selectsSS_iff, MemForm.ne_bp_of_wellFormed hm, or_false]
  | direct off => exact ⟨toNat_emod off, rfl⟩
  | disp8 b d =>
    refine ⟨toNat_add_emod (Base.toNat_value b _) (toNat_sext16 d), ?_⟩
    simp only [MemForm.selectsSS, Base.selectsSS_iff]
  | disp16 b d =>
    refine ⟨toNat_add_emod (Base.toNat_value b _) (toNat_emod d), ?_⟩
    simp only [MemForm.selectsSS, Base.selectsSS_iff]

/-- Settles O53: each of the eight codes evaluates to its view (R126). -/
theorem registerCodesSelectTheirViews : Obligations.RegisterCodesSelectTheirViews :=
  fun _ => ⟨rfl, rfl, fun _ => rfl, fun _ => rfl, rfl⟩

end Sys2Proof.Machine
end

section
/-! The length of an encoding (30_encoding.md R123), from its lemma for each constructor. -/

namespace Sys2Proof.Laws.EncodeLength

open Sys2Proof Sys2Proof.Machine

theorem length_encode_bounds (i : Instr) : Statement i :=
  Instr.casesOn i
    addRm8R8 addRm16R16 addR8Rm8 addR16Rm16 addAlImm8 addAxImm16 addRm8Imm8 addRm16Imm16 addRm16Imm8 orRm8R8
    orRm16R16 orR8Rm8 orR16Rm16 orAlImm8 orAxImm16 orRm8Imm8 orRm16Imm16 orRm16Imm8 adcRm8R8 adcRm16R16 adcR8Rm8
    adcR16Rm16 adcAlImm8 adcAxImm16 adcRm8Imm8 adcRm16Imm16 adcRm16Imm8 sbbRm8R8 sbbRm16R16 sbbR8Rm8 sbbR16Rm16
    sbbAlImm8 sbbAxImm16 sbbRm8Imm8 sbbRm16Imm16 sbbRm16Imm8 andRm8R8 andRm16R16 andR8Rm8 andR16Rm16 andAlImm8
    andAxImm16 andRm8Imm8 andRm16Imm16 andRm16Imm8 subRm8R8 subRm16R16 subR8Rm8 subR16Rm16 subAlImm8 subAxImm16
    subRm8Imm8 subRm16Imm16 subRm16Imm8 xorRm8R8 xorRm16R16 xorR8Rm8 xorR16Rm16 xorAlImm8 xorAxImm16 xorRm8Imm8
    xorRm16Imm16 xorRm16Imm8 cmpRm8R8 cmpRm16R16 cmpR8Rm8 cmpR16Rm16 cmpAlImm8 cmpAxImm16 cmpRm8Imm8 cmpRm16Imm16
    cmpRm16Imm8 mulRm8 mulRm16 divRm16 movRm8R8 movRm16R16 movR8Rm8 movR16Rm16 movRm16Sreg movSregRm16 leaR16M
    movAlMoffs8 movAxMoffs16 movMoffs8Al movMoffs16Ax movR8Imm8 movR16Imm16 movRm8Imm8 movRm16Imm16 nop pushR16
    popR16 pushEs pushCs pushSs pushDs popEs popSs popDs jmpRel8 jmpRel16 jmpFar joRel8 jnoRel8 jbRel8 jnbRel8
    jzRel8 jnzRel8 jbeRel8 jaRel8 jsRel8 jnsRel8 jpRel8 jnpRel8 jlRel8 jgeRel8 jleRel8 jgRel8 callRel16 callFar ret
    retImm16 retf retfImm16 movsb cmpsb lodsb intImm8 clc stc cmc cli sti cld std esOverride csOverride ssOverride
    dsOverride fsOverride gsOverride repPrefix

/-- Settles O17: one lemma for each constructor; the longest is an immediate word after a displacement word. -/
theorem anEncodingHasOneToSixBytes : Obligations.AnEncodingHasOneToSixBytes :=
  ⟨length_encode_bounds, fun _ _ _ => rfl⟩

end Sys2Proof.Laws.EncodeLength
end

section
/-! What the fetch of a Cycle gives (40_cycle.md R202, R203, 30_encoding.md R130): behind its prefixes a whole
instruction, or the bytes read up to a decode failure; and that every ready Cycle completes (R201, R209). -/

namespace Sys2Proof

open Sys2Proof.Machine

variable {σ : Type} {F : Fetcher σ} {c d e : Cursor σ} {i : Instr}

/-- From `c` to `d` byte fields alone were read, and the bytes recorded are those. -/
def ReadsBytes (F : Fetcher σ) (c d : Cursor σ) : Prop :=
  ∃ bs, d.seen = c.seen ++ bs ∧ Reads F c.pos (bs.map .byte) d.pos

theorem ReadsBytes.trans (h : ReadsBytes F c d) (h' : ReadsBytes F d e) : ReadsBytes F c e := by
  obtain ⟨bs, hseen, hread⟩ := h
  obtain ⟨bs', hseen', hread'⟩ := h'
  refine ⟨bs ++ bs', by rw [hseen', hseen, List.append_assoc], ?_⟩
  rw [List.map_append]
  exact reads_append.mpr ⟨d.pos, hread, hread'⟩

/-- Decoding that fails, but not for want of bytes, has read the opcode byte, or that and the ModRM byte. -/
theorem readsBytes_of_bad {r : DecodeError} (h : decodeFrom F c = .bad r d) (hr : r ≠ .truncated) :
    ReadsBytes F c d := by
  cases hop : F.next8 c.pos with
  | none =>
    rw [decodeFrom, fetch8, hop] at h
    cases h
    exact absurd rfl hr
  | some bq =>
    obtain ⟨op, q⟩ := bq
    obtain rfl | ⟨hu, rfl⟩ | ⟨m, q', hm, hi, rfl⟩ := decodeFrom_bad_cases hop h
    · exact absurd rfl hr
    · have hread : Reads F c.pos [.byte op] q := ⟨q, hop, rfl⟩
      cases h.symm.trans (decodeFrom_unadmitted hu hread)
      exact ⟨[op], rfl, hread⟩
    · have hread : Reads F c.pos [.byte op, .byte m] q' := ⟨q, hop, q', hm, rfl⟩
      cases h.symm.trans (decodeFrom_modrmIllegal hi hread)
      exact ⟨[op, m], rfl, hread⟩

theorem exists_encodeFields_of_isPrefix (hi : i.isPrefix = true) : ∃ b, encodeFields i = [.byte b] := by
  unfold Instr.isPrefix at hi
  split at hi
  on_goal 8 => cases hi
  all_goals exact ⟨_, rfl⟩

theorem readsBytes_of_prefix (h : decodeFrom F c = .ok i d) (hi : i.isPrefix = true) : ReadsBytes F c d := by
  obtain ⟨hw, hread⟩ := decodeFrom_ok h
  obtain ⟨b, hb⟩ := exists_encodeFields_of_isPrefix hi
  have hd : d = ⟨d.pos, c.seen ++ encode i⟩ := by simpa using h.symm.trans (decodeFrom_encode hw hread)
  rw [encode, hb] at hd
  rw [hb] at hread
  exact ⟨[b], congrArg Cursor.seen hd, hread⟩

end Sys2Proof

namespace Sys2Proof.Machine

/-! ### The loop (R130) -/

section Loop

variable {σ : Type} {F : Fetcher σ} {p q : σ} {c d : Cursor σ} {i : Instr}

theorem prefixLoop_of_instr (h : decodeFrom F c = .ok i d) (hi : i.isPrefix = false) (room : Nat) :
    prefixLoop F room c = .ok [] i d := by
  rw [prefixLoop, h]
  exact if_neg (by simp [hi])

/-- The loop fails where decoding fails, at the byte there is no room for, or behind a byte there is room for. -/
theorem prefixLoop_illegal_cases {room : Nat} (h : prefixLoop F room c = .illegal d) :
    (∃ e, decodeFrom F c = .bad e d) ∨ ∃ i c', decodeFrom F c = .ok i c' ∧ i.isPrefix = true ∧
      ((room = 0 ∧ c' = d) ∨ ∃ left, room = left + 1 ∧ prefixLoop F left c' = .illegal d) := by
  cases hd : decodeFrom F c with
  | bad e c' =>
    cases h.symm.trans (prefixLoop_of_bad hd room)
    exact .inl ⟨e, rfl⟩
  | ok i c' =>
    cases hi : i.isPrefix with
    | false => cases h.symm.trans (prefixLoop_of_instr hd hi room)
    | true =>
      refine .inr ⟨i, c', rfl, hi, ?_⟩
      cases room with
      | zero =>
        cases h.symm.trans (prefixLoop_no_room hd hi)
        exact .inl ⟨rfl, rfl⟩
      | succ left =>
        refine .inr ⟨left, rfl, ?_⟩
        rw [prefixLoop, hd] at h
        simp only [hi, if_true] at h
        cases hl : prefixLoop F left c' with
        | ok ps j c2 => simp [hl] at h
        | illegal c2 => simpa [hl] using h

/-- Prefixes there is room for and the instruction behind them are fetched whole, with all their bytes recorded. -/
theorem prefixLoop_encode {ps : List Instr} (hp : ∀ j ∈ ps, j.isPrefix = true) {room : Nat} (hl : ps.length ≤ room)
    (hi : i.isPrefix = false) (hw : i.wellFormed = true) (h : Reads F p ((ps ++ [i]).flatMap encodeFields) q) :
    prefixLoop F room ⟨p, []⟩ = .ok ps i ⟨q, (ps ++ [i]).flatMap encode⟩ := by
  rw [List.flatMap_append, List.flatMap_singleton] at h ⊢
  obtain ⟨r, hps, hinstr⟩ := reads_append.mp h
  rw [← Nat.add_sub_of_le hl, prefixLoop_prefixes hp _ hps, prefixLoop_of_instr (decodeFrom_encode hw hinstr) hi]
  simp [Fetched.withPrefixes]

end Loop

/-! ### The bytes at CS:IP have no end (40_cycle.md R203) -/

section Code

variable {s : State} {c d : Cursor FetchPos} {op m : Byte}

/-- `Fetch8` at CS:IP goes on, and so, by the same computation, does `Fetch16`. -/
theorem fetch8_ne_truncated {k : Byte → Cursor FetchPos → Decoded FetchPos}
    (hk : ∀ b c, k b c ≠ .bad .truncated d) : fetch8 s.fetcher c k ≠ .bad .truncated d :=
  hk _ _

theorem decodeMem_ne_truncated {k : MemForm → Cursor FetchPos → Decoded FetchPos}
    (hk : ∀ mf c, k mf c ≠ .bad .truncated d) : decodeMem s.fetcher m c k ≠ .bad .truncated d := by
  rw [decodeMem]
  split
  · split <;> exact hk _ _
  · split <;> exact hk _ _

theorem decodeRM_ne_truncated {k : RM (BitVec 3) → Cursor FetchPos → Decoded FetchPos}
    (hk : ∀ e c, k e c ≠ .bad .truncated d) : decodeRM s.fetcher m c k ≠ .bad .truncated d := by
  rw [decodeRM]
  split
  · exact hk _ _
  · exact decodeMem_ne_truncated fun _ _ => hk _ _

theorem decodeEntry_ne_truncated (x : OpEntry) : decodeEntry s.fetcher op c x ≠ .bad .truncated d := by
  cases x
  case plain | imm8 | imm16 | far => nofun
  case modrmMem mk =>
    rw [decodeEntry]
    refine fetch8_ne_truncated fun m c => ?_
    split
    · nofun
    · exact decodeMem_ne_truncated nofun
  case modrm pick | modrmImm8 pick | modrmImm16 pick =>
    rw [decodeEntry]
    refine fetch8_ne_truncated fun m c => ?_
    cases pick (regField m)
    · nofun
    · exact decodeRM_ne_truncated nofun

theorem decodeFrom_ne_truncated : decodeFrom s.fetcher c ≠ .bad .truncated d := by
  refine fetch8_ne_truncated fun op c => ?_
  split
  · nofun
  · exact decodeEntry_ne_truncated _

/-- A fetch that fails has read byte fields alone. -/
theorem readsBytes_of_illegal {room : Nat} (h : prefixLoop s.fetcher room c = .illegal d) :
    ReadsBytes s.fetcher c d := by
  induction room using Nat.strong_induction_on generalizing c with
  | h room ih =>
    obtain ⟨e, hbad⟩ | ⟨i, c', hok, hi, ⟨-, rfl⟩ | ⟨left, rfl, hloop⟩⟩ := prefixLoop_illegal_cases h
    · exact readsBytes_of_bad hbad fun he => decodeFrom_ne_truncated (he ▸ hbad)
    · exact readsBytes_of_prefix hok hi
    · exact (readsBytes_of_prefix hok hi).trans (ih left (Nat.lt_succ_self left) hloop)

/-- The converse of `reads_of_holdsCode`: the fields the fetch reads stand at CS:IP. -/
theorem holdsCode_of_reads {off : Word} {fs : List Field} {q : FetchPos} (h : Reads s.fetcher ⟨off, s.bus⟩ fs q) :
    s.holdsCode off fs ∧ q.bus = (s.readCode off fs).bus := by
  induction fs generalizing s off with
  | nil =>
    cases h
    exact ⟨trivial, rfl⟩
  | cons f fs ih =>
    cases f with
    | byte b =>
      obtain ⟨p, hp, h⟩ := h
      cases hp
      obtain ⟨hcode, hbus⟩ := ih (s := s.sawByte (s.codeAddr off)) h
      exact ⟨⟨rfl, hcode⟩, hbus⟩
    | word w =>
      obtain ⟨p, hp, h⟩ := h
      simp only [State.fetcher, Option.some.injEq, Prod.mk.injEq] at hp
      obtain ⟨hlo, hhi, rfl⟩ := hp
      have hw : s.readWord (s.codeAddr off) = w := by
        rw [← wordOf_lo_hi (s.readWord (s.codeAddr off)), State.readWord, hlo, hhi, wordOf_lo_hi]
      obtain ⟨hcode, hbus⟩ := ih (s := s.sawWord (s.codeAddr off)) h
      exact ⟨⟨hw, hcode⟩, hbus⟩

/-- The whole fetch of an instruction behind up to 15 prefixes. -/
theorem fetchCycle_encode {ps : List Instr} {i : Instr} (hp : ∀ j ∈ ps, j.isPrefix = true) (hl : ps.length ≤ 15)
    (hi : i.isPrefix = false) (hw : i.wellFormed = true)
    (h : s.holdsCode s.ip ((ps ++ [i]).flatMap encodeFields)) :
    s.fetchCycle = .ok ps i ⟨⟨s.ip + BitVec.ofNat 16 ((ps ++ [i]).flatMap encode).length,
      (s.readCode s.ip ((ps ++ [i]).flatMap encodeFields)).bus⟩, (ps ++ [i]).flatMap encode⟩ := by
  have hread := reads_of_holdsCode h
  rw [fieldBytes, List.flatMap_assoc] at hread
  exact prefixLoop_encode hp hl hi hw hread

theorem fetched_eq_readCode (s : State) (off v : Word) (fs : List Field) :
    s.fetched ⟨v, (s.readCode off fs).bus⟩ = (s.readCode off fs).setIp v := by
  rw [readCode_eq]
  rfl

end Code

/-! ### Every ready Cycle completes (R201, R209, R210) -/

/-- No meaning stops. -/
theorem exec_completes (i : Instr) (s : State) : ∃ t, exec i s = .next t := by
  induction i using Instr.byFamily with
  | alu op f => exact ⟨_, exec_alu op f s⟩
  | jcc c d => exact ⟨_, exec_jcc c d s⟩
  | _ => exact ⟨_, rfl⟩

theorem runPrefixes_completes (ps : List Instr) (s : State) : ∃ t, runPrefixes ps s = .next t := by
  induction ps generalizing s with
  | nil => exact ⟨s, rfl⟩
  | cons p ps ih =>
    obtain ⟨t, ht⟩ := exec_completes p s
    rw [runPrefixes_cons ht]
    exact ih t

/-! ### Settled: the Cycle (40_cycle.md) -/

/-- Settles O5: behind a fetch that succeeds neither the prefixes nor the instruction can stop; a fetch that fails still
ends the Cycle with the fault and a state. -/
theorem everyReadyCycleCompletes : Obligations.EveryReadyCycleCompletes := by
  refine ⟨fun s hr => ?_, exec_completes⟩
  cases hf : s.fetchCycle with
  | illegal c => exact ⟨⟨_, _, cycle_of_illegal hr hf⟩, fun h => absurd rfl (h c)⟩
  | ok ps i c =>
    obtain ⟨atExec, hp⟩ := runPrefixes_completes ps (s.fetched c.pos)
    obtain ⟨t, he⟩ := exec_completes i atExec
    exact ⟨⟨_, _, cycle_of_fetch hr hf hp he⟩, fun _ => ⟨_, step_of_fetch hr hf hp he⟩⟩

/-- Settles O8: the fetch read byte fields alone, so they stand at CS:IP; the rest is `decodeFails_of_illegal`, whose
state is the one `cycle` gives. -/
theorem decodeFailureChangesNoArchitecturalState : Obligations.DecodeFailureChangesNoArchitecturalState := by
  intro s c hr hf
  obtain ⟨bs, hseen, hread⟩ := readsBytes_of_illegal hf
  obtain rfl : c.seen = bs := hseen
  obtain ⟨hcode, hbus⟩ := holdsCode_of_reads hread
  obtain ⟨hstep, t, hc, hsame, hdraws, hfault⟩ := decodeFails_of_illegal hr hf
  obtain rfl : s.decodeFail c = t := by simpa using (cycle_of_illegal hr hf).symm.trans hc
  exact ⟨hcode, hstep, _, hc, hsame, hdraws, hbus, hfault, rfl⟩

/-- Settles O6: the fetch gives the prefixes, the instruction and its bytes (`fetchCycle_encode`), and leaves the state
from which the statement runs them. -/
theorem stepRunsTheDecodedInstruction : Obligations.StepRunsTheDecodedInstruction := by
  intro s ps i hr hp hl hi hw hcode atExec t hpre hexec
  rw [← fetched_eq_readCode] at hpre
  exact step_of_fetch hr (fetchCycle_encode hp hl hi hw hcode) hpre hexec

end Sys2Proof.Machine
end

section
/-! The primitives of the two-operand operations and their flags (41_alu.md R250 to R254), at every width. -/

namespace Sys2Proof.Machine

variable {w : Nat}

/-! ### ZF, SF and PF of a result (R251) -/

theorem sum_map_toNat_eq_countP {α : Type} (p : α → Bool) (l : List α) :
    (l.map fun x => (p x).toNat).sum = l.countP p := by
  induction l with
  | nil => rfl
  | cons x l ih =>
    rw [List.map_cons, List.sum_cons, ih, List.countP_cons, Nat.add_comm]
    cases p x <;> rfl

theorem parityEven_iff (res : BitVec w) :
    parityEven res = true ↔ ((List.range 8).countP fun n => res.getLsbD n) % 2 = 0 := by
  have hlow : (List.range 8).countP (fun n => (res.setWidth 8).getLsbD n) =
      (List.range 8).countP fun n => res.getLsbD n := by
    refine List.countP_congr fun n hn => ?_
    rw [BitVec.getLsbD_setWidth, decide_eq_true (List.mem_range.mp hn), Bool.true_and]
  rw [parityEven, popcount8, sum_map_toNat_eq_countP (fun n => (res.setWidth 8).getLsbD n), hlow, beq_iff_eq]

/-- The three flags every primitive takes from its result. -/
theorem resultFlags_iff (res : BitVec w) :
    ((res == 0) = true ↔ res.toNat = 0) ∧ res.msb = res.getLsbD (w - 1) ∧
    (parityEven res = true ↔ ((List.range 8).countP fun n => res.getLsbD n) % 2 = 0) :=
  ⟨by rw [beq_iff_eq, BitVec.toNat_eq]; rfl, BitVec.msb_eq_getLsbD_last res, parityEven_iff res⟩

/-! ### Addition (R252) -/

variable (a b : BitVec w) (c : Bool)

/-- The result is the library's sum of the operands and the carry, so its bits are those of the carry chain. -/
theorem addC_result : (addC a b c).1 = a + b + (BitVec.ofBool c).setWidth w := by
  refine BitVec.eq_of_toNat_eq ?_
  simp [addC]

theorem toNat_addC : (addC a b c).1.toNat = (a.toNat + b.toNat + c.toNat) % 2 ^ w := BitVec.toNat_ofNat _ _

theorem addC_cf_iff : (addC a b c).2.cf = true ↔ 2 ^ w ≤ a.toNat + b.toNat + c.toNat := by
  have := Nat.two_pow_pos w
  rw [addC, decide_eq_true_iff]
  omega

theorem addC_ovf_iff : (addC a b c).2.ovf = true ↔
    ¬ (-2 ^ (w - 1) ≤ a.toInt + b.toInt + c.toNat ∧ a.toInt + b.toInt + c.toNat ≤ 2 ^ (w - 1) - 1) := by
  rw [addC, Bool.not_eq_true', decide_eq_false_iff_not]

/-- The carry into bit `i` is the difference of that bit of the sum from the sum of the operands' bits. -/
theorem getLsbD_xor_addC {i : Nat} (hi : i < w) :
    (a ^^^ b ^^^ (addC a b c).1).getLsbD i = BitVec.carry i a b c := by
  rw [addC_result, BitVec.getLsbD_xor, BitVec.getLsbD_xor, BitVec.getLsbD_add_add_bool hi]
  cases a.getLsbD i <;> cases b.getLsbD i <;> simp

theorem auxCarry_addC_iff (hw : 4 < w) :
    auxCarry a b (addC a b c).1 = true ↔ 16 ≤ a.toNat % 16 + b.toNat % 16 + c.toNat := by
  rw [auxCarry, getLsbD_xor_addC a b c hw, BitVec.carry, decide_eq_true_iff]

/-! The signed sum at half the modulus `m = 2 ^ (w - 1)`, where a value counts as negative from `m` on. -/

/-- An exact signed sum leaves the range when its operands agree in sign and the wrapped sum `r` does not. -/
theorem signed_sum_out_of_range_iff {m x y c r : Nat} {sx sy : Int} (hx : x < 2 * m) (hy : y < 2 * m) (hc : c ≤ 1)
    (hr : r < 2 * m) (hsum : r = x + y + c ∨ r + 2 * m = x + y + c)
    (hsx : sx = if m ≤ x then (x : Int) - 2 * m else x) (hsy : sy = if m ≤ y then (y : Int) - 2 * m else y) :
    ¬ (-m ≤ sx + sy + c ∧ sx + sy + c ≤ m - 1) ↔ (m ≤ x ↔ ¬ m ≤ r) ∧ (m ≤ y ↔ ¬ m ≤ r) := by
  split at hsx <;> split at hsy <;> omega

theorem two_pow_eq_two_mul (hw : 0 < w) : 2 ^ w = 2 * 2 ^ (w - 1) := by
  rw [Nat.mul_comm, Nat.two_pow_pred_mul_two hw]

/-- The signed value from the unsigned one: from `m` on it is less by the modulus. -/
theorem toInt_eq_ite (hw : 0 < w) (x : BitVec w) : x.toInt =
    if 2 ^ (w - 1) ≤ x.toNat then (x.toNat : Int) - 2 * (2 ^ (w - 1) : Nat) else x.toNat := by
  simp [BitVec.toInt_eq_msb_cond, BitVec.msb_eq_decide, two_pow_eq_two_mul hw]

/-- Two values differ in sign when one alone is below `m`. -/
theorem msb_xor_iff (x y : BitVec w) :
    (x ^^^ y).msb = true ↔ (2 ^ (w - 1) ≤ x.toNat ↔ ¬ 2 ^ (w - 1) ≤ y.toNat) := by
  rw [BitVec.msb_xor, Bool.xor_iff_ne, BitVec.msb_eq_decide, BitVec.msb_eq_decide, ne_eq, decide_eq_decide]
  tauto

/-- The carry in does not make the sum reach twice the modulus. -/
theorem addC_wraps_once (hw : 0 < w) : (addC a b c).1.toNat = a.toNat + b.toNat + c.toNat ∨
    (addC a b c).1.toNat + 2 * 2 ^ (w - 1) = a.toNat + b.toNat + c.toNat := by
  have hc := Bool.toNat_le c
  rw [toNat_addC, ← two_pow_eq_two_mul hw]
  obtain h | h := Nat.lt_or_ge (a.toNat + b.toNat + c.toNat) (2 ^ w)
  · exact .inl (Nat.mod_eq_of_lt h)
  · rw [Nat.mod_eq_sub_mod h, Nat.mod_eq_of_lt (by omega)]
    omega

/-- OF by the exact sum is OF by the sign bits. -/
theorem addC_ovf_eq_msb (hw : 0 < w) :
    (addC a b c).2.ovf = ((a ^^^ (addC a b c).1) &&& (b ^^^ (addC a b c).1)).msb := by
  have hlt (x : BitVec w) : x.toNat < 2 * 2 ^ (w - 1) := two_pow_eq_two_mul hw ▸ x.isLt
  have hrange := signed_sum_out_of_range_iff (hlt a) (hlt b) (Bool.toNat_le c) (hlt _) (addC_wraps_once a b c hw)
    (toInt_eq_ite hw a) (toInt_eq_ite hw b)
  rw [Bool.eq_iff_iff, addC_ovf_iff, BitVec.msb_and, Bool.and_eq_true, msb_xor_iff, msb_xor_iff, ← hrange]
  simp

/-! ### Subtraction (R253) -/

theorem toNat_subB : ((subB a b c).1.toNat : Int) = ((a.toNat : Int) - b.toNat - c.toNat) % 2 ^ w := by
  have : (subB a b c).1.toNat = _ := BitVec.toNat_ofInt _
  rw [this, Int.toNat_of_nonneg (Int.emod_nonneg _ (by positivity))]
  simp

theorem subB_cf_iff : (subB a b c).2.cf = true ↔ a.toNat < b.toNat + c.toNat := decide_eq_true_iff

theorem toNat_not_add_toNat (c : Bool) : (!c).toNat + c.toNat = 1 := by cases c <;> rfl

/-- A subtraction is the addition of the complement, with the borrow as a missing carry. -/
theorem subB_result : (subB a b c).1 = (addC a (~~~b) (!c)).1 := by
  refine BitVec.eq_of_toNat_eq ?_
  have hb := b.isLt
  have hc := toNat_not_add_toNat c
  have ht : ((a.toNat + (2 ^ w - 1 - b.toNat) + (!c).toNat : Nat) : Int) =
      a.toNat - b.toNat - c.toNat + (2 ^ w : Nat) := by omega
  zify
  rw [toNat_subB, toNat_addC, BitVec.toNat_not, Int.natCast_mod, ht]
  simp

/-- The complement in two's complement. -/
theorem toInt_not_eq (hw : 0 < w) : (~~~b).toInt = -1 - b.toInt := by
  have hb := b.isLt
  rw [toInt_eq_ite hw, toInt_eq_ite hw, BitVec.toNat_not, two_pow_eq_two_mul hw]
  rw [two_pow_eq_two_mul hw] at hb
  split <;> split <;> omega

theorem subB_ovf_eq_addC (hw : 0 < w) : (subB a b c).2.ovf = (addC a (~~~b) (!c)).2.ovf := by
  rw [addC_ovf_eq_msb _ _ _ hw, ← subB_result]
  have : (subB a b c).2.ovf = ((a.msb != b.msb) && ((subB a b c).1.msb != a.msb)) := rfl
  rw [this, BitVec.msb_and, BitVec.msb_xor, BitVec.msb_xor, BitVec.msb_not, decide_eq_true hw]
  cases a.msb <;> cases b.msb <;> simp

theorem subB_ovf_iff (hw : 0 < w) : (subB a b c).2.ovf = true ↔
    ¬ (-2 ^ (w - 1) ≤ a.toInt - b.toInt - c.toNat ∧ a.toInt - b.toInt - c.toNat ≤ 2 ^ (w - 1) - 1) := by
  have ht : a.toInt + (~~~b).toInt + (!c).toNat = a.toInt - b.toInt - c.toNat := by
    have hc := toNat_not_add_toNat c
    rw [toInt_not_eq b hw]
    omega
  rw [subB_ovf_eq_addC a b c hw, addC_ovf_iff, ht]

theorem auxCarry_subB_iff (hw : 4 < w) :
    auxCarry a b (subB a b c).1 = true ↔ a.toNat % 16 < b.toNat % 16 + c.toNat := by
  have hb := b.isLt
  have hc := toNat_not_add_toNat c
  have hpow : 2 ^ w = 16 * 2 ^ (w - 4) := by rw [← Nat.pow_add 2 4, Nat.add_sub_cancel' (by omega)]
  have hflip : auxCarry a b (subB a b c).1 = !auxCarry a (~~~b) (addC a (~~~b) (!c)).1 := by
    rw [subB_result, auxCarry, auxCarry]
    simp [show 4 < w from hw]
  rw [hflip, Bool.not_eq_true', ← Bool.not_eq_true, auxCarry_addC_iff _ _ _ hw, BitVec.toNat_not]
  rw [hpow] at hb ⊢
  omega

/-! ### Which primitive an operation is (R260 to R267) -/

theorem prim_eq_addC {op : AluOp} (h : op = .add ∨ op = .adc) (cf : Bool) :
    op.prim cf a b = addC a b (op == .adc && cf) := by
  obtain rfl | rfl := h <;> rfl

theorem prim_eq_subB {op : AluOp} (h : op = .sub ∨ op = .sbb ∨ op = .cmp) (cf : Bool) :
    op.prim cf a b = subB a b (op == .sbb && cf) := by
  obtain rfl | rfl | rfl := h <;> rfl

theorem prim_eq_logicRes {op : AluOp} (h : op = .and ∨ op = .or ∨ op = .xor) (cf : Bool) :
    op.prim cf a b = logicRes (op.prim cf a b).1 := by
  obtain rfl | rfl | rfl := h <;> rfl

/-! ### Settled: the primitives -/

/-- Settles O23: ADD and ADC are `addC`, whose flags hold at every width above 4. -/
theorem additionFlagsFollowTheExactSum : Obligations.AdditionFlagsFollowTheExactSum := by
  intro w h op hop cf a b c r
  have hw : 4 < w := by omega
  have hr : r = addC a b (op == .adc && cf) := prim_eq_addC a b hop cf
  rw [hr]
  exact ⟨toNat_addC a b _, addC_cf_iff a b _, addC_ovf_iff a b _, addC_ovf_eq_msb a b _ (by omega),
    auxCarry_addC_iff a b _ hw, resultFlags_iff _⟩

/-- Settles O24: SUB, SBB and CMP are `subB`, an addition of the complement. -/
theorem subtractionFlagsFollowTheExactDifference : Obligations.SubtractionFlagsFollowTheExactDifference := by
  intro w h op hop cf a b c r
  have hw : 4 < w := by omega
  have hr : r = subB a b (op == .sbb && cf) := prim_eq_subB a b hop cf
  rw [hr]
  exact ⟨toNat_subB a b _, subB_cf_iff a b _, subB_ovf_iff a b _ (by omega), auxCarry_subB_iff a b _ hw,
    resultFlags_iff _⟩

/-- Settles O25: the results are the library's bitwise operations, the flags `logicRes`. -/
theorem logicalFlagsFollowTheBitwiseResult : Obligations.LogicalFlagsFollowTheBitwiseResult := by
  intro w _ cf a b
  refine ⟨fun n => ⟨BitVec.getLsbD_and, BitVec.getLsbD_or, BitVec.getLsbD_xor⟩, fun op hop => ?_⟩
  rw [prim_eq_logicRes a b hop cf]
  exact ⟨rfl, rfl, rfl, resultFlags_iff _⟩

end Sys2Proof.Machine
end

section
/-! The two-operand instructions (41_alu.md R255, R256): what the byte and the word forms do, in three parts: the
operands are read, the six flags are set, the result is written unless the operation is CMP. -/

namespace Sys2Proof.Machine

variable {s u : State} {reads : List BusOp} {seg : SegReg}

/-! ### Decoding and reading the operands (40_cycle.md R206) -/

/-- From `s` to `u` the operands were decoded and read: ADS is `seg`, the bus saw `reads`, and nothing else changed. -/
structure operandsRead (reads : List BusOp) (seg : SegReg) (s u : State) : Prop where
  regs : u.regs = s.regs
  flags : u.flags = s.flags
  segs : u.segs = s.segs
  ads : u.ads = seg
  bus : u.bus = s.bus.run reads
  sequencer : sameSequencer s u

theorem operandsRead_refl (s : State) : operandsRead [] s.ads s s :=
  ⟨rfl, rfl, rfl, rfl, rfl, ⟨rfl, rfl, rfl, rfl, rfl, rfl, rfl⟩⟩

theorem operandsRead_saw8 (s : State) (e : RM Reg8) :
    operandsRead (s.reads8 e) (s.rmSeg e) s ((s.useRM e).saw8 (s.loc e)) where
  regs := by simp
  flags := by simp
  segs := by simp
  ads := by simp
  bus := saw8_loc_bus s e
  sequencer := by constructor <;> simp

theorem operandsRead_saw16 (s : State) (e : RM Reg16) :
    operandsRead (s.reads16 e) (s.rmSeg e) s ((s.useRM e).saw16 (s.loc e)) where
  regs := by simp
  flags := by simp
  segs := by simp
  ads := by simp
  bus := saw16_loc_bus s e
  sequencer := by constructor <;> simp

/-! ### Setting the flags and writing the result (R256) -/

/-- The operation on the state changes no more than registers and the bus. -/
structure writesOperand (write : State → State) : Prop where
  flags : ∀ u, (write u).flags = u.flags
  segs : ∀ u, (write u).segs = u.segs
  ads : ∀ u, (write u).ads = u.ads
  sequencer : ∀ u, sameSequencer u (write u)

theorem writesOperand_id : writesOperand id :=
  ⟨fun _ => rfl, fun _ => rfl, fun _ => rfl, fun _ => ⟨rfl, rfl, rfl, rfl, rfl, rfl, rfl⟩⟩

theorem writesOperand_write8 (l : Loc Reg8) (v : Byte) : writesOperand (State.write8 · l v) :=
  ⟨fun u => u.write8_flags l v, fun u => u.write8_segs l v, fun u => u.write8_ads l v,
    fun u => write8_sequencer u l v⟩

theorem writesOperand_write16 (l : Loc Reg16) (v : Word) : writesOperand (State.write16 · l v) :=
  ⟨fun u => u.write16_flags l v, fun u => u.write16_segs l v, fun u => u.write16_ads l v,
    fun u => write16_sequencer u l v⟩

/-- What is left of a two-operand instruction once the operands are read, with `write` for the write of the result. -/
def State.finish (u : State) (op : AluOp) (fl : StatusFlags) (write : State → State) : State :=
  if op = .cmp then u.setStatus fl else write (u.setStatus fl)

theorem writes_iff_ne_cmp (op : AluOp) : op.writes = true ↔ op ≠ .cmp := by cases op <;> decide

@[simp] theorem setStatus_write8 (s : State) (l : Loc Reg8) (v : Byte) (fl : StatusFlags) :
    (s.write8 l v).setStatus fl = (s.setStatus fl).write8 l v := by
  cases l <;> rfl

@[simp] theorem setStatus_write16 (s : State) (l : Loc Reg16) (v : Word) (fl : StatusFlags) :
    (s.write16 l v).setStatus fl = (s.setStatus fl).write16 l v := by
  cases l <;> rfl

theorem alu8_eq_finish (hf : u.flags = s.flags) {l : Loc Reg8} {a : Byte} (ha : u.read8 l = a) (op : AluOp) (b : Byte) :
    alu8 op l b u = (u.saw8 l).finish op (op.prim (s.flag .CF) a b).2
      (State.write8 · l (op.prim (s.flag .CF) a b).1) := by
  rw [alu8, ha, State.flag_congr hf, State.finish]
  by_cases hc : op = .cmp <;> simp [writes_iff_ne_cmp, hc]

theorem alu16_eq_finish (hf : u.flags = s.flags) {l : Loc Reg16} {a : Word} (ha : u.read16 l = a) (op : AluOp)
    (b : Word) : alu16 op l b u = (u.saw16 l).finish op (op.prim (s.flag .CF) a b).2
      (State.write16 · l (op.prim (s.flag .CF) a b).1) := by
  rw [alu16, ha, State.flag_congr hf, State.finish]
  by_cases hc : op = .cmp <;> simp [writes_iff_ne_cmp, hc]

/-- Behind the reads, setting the flags and writing gives these flags and the frame of every operand write. -/
theorem operandsRead.status_and_frame (h : operandsRead reads seg s u) (fl : StatusFlags) {write : State → State}
    (hw : writesOperand write) :
    statusIs fl (write (u.setStatus fl)) ∧ sameFlagsOutside statusBits s (write (u.setStatus fl)) ∧
    (write (u.setStatus fl)).segs = s.segs ∧ (write (u.setStatus fl)).ads = seg ∧
    sameSequencer s (write (u.setStatus fl)) := by
  have hflags := hw.flags (u.setStatus fl)
  have hflag := State.flag_congr hflags
  obtain ⟨hcf, hpf, haf, hzf, hsf, hovf⟩ := statusIs_setStatus u fl
  obtain ⟨hovr, hrep, hfault, hinh, htrace, hsignal, hdraws⟩ := hw.sequencer (u.setStatus fl)
  have hu := h.sequencer
  refine ⟨⟨(hflag _).trans hcf, (hflag _).trans hpf, (hflag _).trans haf, (hflag _).trans hzf, (hflag _).trans hsf,
    (hflag _).trans hovf⟩, fun n hn => ?_, (hw.segs _).trans h.segs, (hw.ads _).trans h.ads,
    ⟨hovr.trans hu.ovr, hrep.trans hu.rep, hfault.trans hu.fault, hinh.trans hu.inh, htrace.trans hu.trace,
      hsignal.trans hu.signal, hdraws.trans hu.draws⟩⟩
  rw [hflags, getLsbD_setStatus u fl hn, h.flags]

/-- What R256 says of every form, whatever `written` says of the write of its result. -/
theorem operandsRead.finish (h : operandsRead reads seg s u) (op : AluOp) (fl : StatusFlags) {write : State → State}
    (hw : writesOperand write) {written : State → Prop} (hres : written (write (u.setStatus fl))) :
    statusIs fl (u.finish op fl write) ∧ sameFlagsOutside statusBits s (u.finish op fl write) ∧
    (u.finish op fl write).segs = s.segs ∧ (u.finish op fl write).ads = seg ∧
    sameSequencer s (u.finish op fl write) ∧
    (op = .cmp → (u.finish op fl write).regs = s.regs ∧ busDid reads s (u.finish op fl write)) ∧
    (op ≠ .cmp → written (u.finish op fl write)) := by
  rw [State.finish]
  split
  · rename_i hcmp
    obtain ⟨hst, hfl, hsegs, hads, hseq⟩ := h.status_and_frame fl writesOperand_id
    exact ⟨hst, hfl, hsegs, hads, hseq, fun _ => ⟨h.regs, busDid_of_run h.bus⟩, fun hne => absurd hcmp hne⟩
  · rename_i hne
    obtain ⟨hst, hfl, hsegs, hads, hseq⟩ := h.status_and_frame fl hw
    exact ⟨hst, hfl, hsegs, hads, hseq, fun hcmp => absurd hcmp hne, fun _ => hres⟩

/-- A memory destination is addressed through ADS as it is after the reads. -/
theorem operandsRead.byteWritten (h : operandsRead reads seg s u) (dst : RM Reg8)
    (hseg : ∀ m, dst = .mem m → seg = s.memSeg m) (fl : StatusFlags) (v : Byte) :
    byteWritten dst v reads s ((u.setStatus fl).write8 (s.loc dst) v) := by
  cases dst with
  | reg g => exact ⟨congrArg (RegFile.set8 · g v) h.regs, busDid_of_run h.bus⟩
  | mem m => exact byteWritten_write8 (.mem m) v h.regs h.segs (h.ads.trans (hseg m rfl)) h.bus

theorem operandsRead.wordWritten (h : operandsRead reads seg s u) (dst : RM Reg16)
    (hseg : ∀ m, dst = .mem m → seg = s.memSeg m) (fl : StatusFlags) (v : Word) :
    wordWritten dst v reads s ((u.setStatus fl).write16 (s.loc dst) v) := by
  cases dst with
  | reg g => exact ⟨congrArg (RegFile.set16 · g v) h.regs, busDid_of_run h.bus⟩
  | mem m => exact wordWritten_write16 (.mem m) v h.regs h.segs (h.ads.trans (hseg m rfl)) h.bus

/-! ### The forms (R255) -/

/-- Every byte form reads its operands, then does the rest. -/
theorem aluInstr_of_aluByte {f : AluForm} {dst : RM Reg8} {b : Byte} (h : s.aluByte f = some (dst, b, reads, seg))
    (op : AluOp) : ∃ u, operandsRead reads seg s u ∧ (∀ m, dst = .mem m → seg = s.memSeg m) ∧
      aluInstr op f s = u.finish op (op.prim (s.flag .CF) (s.byteAt dst) b).2
        (State.write8 · (s.loc dst) (op.prim (s.flag .CF) (s.byteAt dst) b).1) := by
  cases f <;> cases h
  case rm8r8 | rm8Imm8 =>
    exact ⟨_, operandsRead_saw8 s dst, fun m hm => by rw [hm]; rfl,
      alu8_eq_finish (s.useRM_flags dst) (read8_loc s dst) op _⟩
  case r8rm8 g e =>
    have hu := operandsRead_saw8 s e
    refine ⟨_, hu, nofun, ?_⟩
    rw [aluInstr, read8_loc]
    exact alu8_eq_finish (l := .reg g) hu.flags (congrArg (RegFile.get8 · g) hu.regs) op _
  case alImm8 => exact ⟨s, operandsRead_refl s, nofun, alu8_eq_finish rfl rfl op _⟩

/-- Every word form reads its operands, then does the rest. -/
theorem aluInstr_of_aluWord {f : AluForm} {dst : RM Reg16} {b : Word} (h : s.aluWord f = some (dst, b, reads, seg))
    (op : AluOp) : ∃ u, operandsRead reads seg s u ∧ (∀ m, dst = .mem m → seg = s.memSeg m) ∧
      aluInstr op f s = u.finish op (op.prim (s.flag .CF) (s.wordAt dst) b).2
        (State.write16 · (s.loc dst) (op.prim (s.flag .CF) (s.wordAt dst) b).1) := by
  cases f <;> cases h
  case rm16r16 | rm16Imm16 | rm16Imm8 =>
    exact ⟨_, operandsRead_saw16 s dst, fun m hm => by rw [hm]; rfl,
      alu16_eq_finish (s.useRM_flags dst) (read16_loc s dst) op _⟩
  case r16rm16 g e =>
    have hu := operandsRead_saw16 s e
    refine ⟨_, hu, nofun, ?_⟩
    rw [aluInstr, read16_loc]
    exact alu16_eq_finish (l := .reg g) hu.flags (congrArg (RegFile.get16 · g) hu.regs) op _
  case axImm16 => exact ⟨s, operandsRead_refl s, nofun, alu16_eq_finish rfl rfl op _⟩

/-- Settles O27: `aluInstr_of_aluByte` reads the operands, `operandsRead.finish` says what the rest does. -/
theorem byteAluInstructionsWriteResultAndFlags : Obligations.ByteAluInstructionsWriteResultAndFlags := by
  intro op f s dst b reads seg h
  obtain ⟨u, hu, hseg, ht⟩ := aluInstr_of_aluByte h op
  refine ⟨_, exec_alu op f s, ?_⟩
  rw [ht]
  exact hu.finish op _ (writesOperand_write8 _ _) (hu.byteWritten dst hseg _ _)

/-- Settles O28: as O27, by `aluInstr_of_aluWord`. -/
theorem wordAluInstructionsWriteResultAndFlags : Obligations.WordAluInstructionsWriteResultAndFlags := by
  intro op f s dst b reads seg h
  obtain ⟨u, hu, hseg, ht⟩ := aluInstr_of_aluWord h op
  refine ⟨_, exec_alu op f s, ?_⟩
  rw [ht]
  exact hu.finish op _ (writesOperand_write16 _ _) (hu.wordWritten dst hseg _ _)

/-! ### Encodings (R255, R124) -/

/-- Settles O26: the encoder's table is the form table, operation by operation and form by form (`encodeFields_alu`). -/
theorem aluFormsFollowTheFormTable : Obligations.AluFormsFollowTheFormTable := encodeFields_alu

/-- Settles O16: each byte sequence evaluates to its instruction; F3 is read alone and A4 is left
(notes/assumptions/9.md). -/
theorem wordsOfTheSpecDecode : Obligations.WordsOfTheSpecDecode :=
  ⟨rfl, rfl, rfl, rfl, rfl, rfl, rfl, rfl, rfl⟩

end Sys2Proof.Machine
end

section
/-! MUL and DIV (42_muldiv.md R300 to R302): the operand is read (`operandsRead_saw8`, `operandsRead_saw16`); then the
exact product and its two flags, or the quotient and the remainder, or Interrupt(0). -/

namespace Sys2Proof.Machine

variable {s u : State} {reads : List BusOp} {seg : SegReg}

/-! ### The exact product (R300, R301) -/

/-- No product of two `w`-bit values leaves twice the width. -/
theorem toNat_widened_mul {w v : Nat} (hv : w + w ≤ v) (a b : BitVec w) :
    (a.setWidth v * b.setWidth v).toNat = a.toNat * b.toNat := by
  have hlt : a.toNat * b.toNat < 2 ^ v := calc
    _ < 2 ^ w * 2 ^ w := Nat.mul_lt_mul'' a.isLt b.isLt
    _ ≤ 2 ^ v := by rw [← Nat.pow_add]; exact Nat.pow_le_pow_right (by decide) hv
  have hw : w ≤ v := by omega
  rw [BitVec.toNat_mul, BitVec.toNat_setWidth_of_le hw, BitVec.toNat_setWidth_of_le hw, Nat.mod_eq_of_lt hlt]

theorem toNat_product8 (a b : Byte) : (product8 a b).toNat = a.toNat * b.toNat := toNat_widened_mul (by decide) a b

theorem toNat_product16 (a b : Word) : (product16 a b).toNat = a.toNat * b.toNat := toNat_widened_mul (by decide) a b

/-- A word or byte is 0 exactly when its number is. -/
theorem bne_zero_eq_toNat {w : Nat} (x : BitVec w) : (x != 0) = (x.toNat != 0) := by
  rw [Bool.eq_iff_iff]
  simp [← BitVec.toNat_inj]

theorem toNat_highWord (p : DWord) : (p.extractLsb' 16 16).toNat = p.toNat / 65536 := by
  have hp := p.isLt
  rw [BitVec.extractLsb'_toNat, Nat.shiftRight_eq_div_pow, Nat.mod_eq_of_lt (by omega)]

/-- AX and DX after a write of both. -/
theorem RegFile.get16_set_ax_dx (r : RegFile) (a d : Word) :
    ((r.set16 .ax a).set16 .dx d).get16 .ax = a ∧ ((r.set16 .ax a).set16 .dx d).get16 .dx = d := by
  simp

/-! ### Writing the product and its flags (R300, R301) -/

/-- What MUL leaves of the state behind its read: the registers `r`, and CF and OF set when the high half `high` of the
product is not 0. -/
def State.withProduct (u : State) (r : RegFile) (high : Nat) : State :=
  (({ u with regs := r } : State).setFlag .CF (high != 0)).setFlag .OF (high != 0)

theorem mulByte_eq_withProduct (e : RM Reg8) (s : State) :
    mulByte e s = ((s.useRM e).saw8 (s.loc e)).withProduct
      (s.regs.set16 .ax (BitVec.ofNat 16 ((s.regs.get8 .al).toNat * (s.byteAt e).toNat)))
      ((s.regs.get8 .al).toNat * (s.byteAt e).toNat / 256) := by
  simp only [mulByte, State.withProduct, State.get8, State.set16, read8_loc, State.saw8_regs, State.useRM_regs,
    bne_zero_eq_toNat, toNat_hiByte, ← toNat_product8, BitVec.ofNat_toNat, BitVec.setWidth_eq]

theorem mulWord_eq_withProduct (e : RM Reg16) (s : State) :
    mulWord e s = ((s.useRM e).saw16 (s.loc e)).withProduct
      ((s.regs.set16 .ax (BitVec.ofNat 16 ((s.regs.get16 .ax).toNat * (s.wordAt e).toNat))).set16 .dx
        (BitVec.ofNat 16 ((s.regs.get16 .ax).toNat * (s.wordAt e).toNat / 65536)))
      ((s.regs.get16 .ax).toNat * (s.wordAt e).toNat / 65536) := by
  simp only [mulWord, State.withProduct, State.get16, State.set16, read16_loc, State.saw16_regs, State.useRM_regs,
    bne_zero_eq_toNat, ← toNat_product16, ← toNat_highWord, BitVec.ofNat_toNat, BitVec.setWidth_eq,
    BitVec.setWidth_eq_extractLsb' (by decide : 16 ≤ 32)]

/-- Behind the read, MUL writes CF and OF, and nothing but them and the registers. -/
theorem operandsRead.withProduct (h : operandsRead reads seg s u) (r : RegFile) (high : Nat) :
    ((u.withProduct r high).flag .CF = true ↔ high ≠ 0) ∧ ((u.withProduct r high).flag .OF = true ↔ high ≠ 0) ∧
    sameFlagsOutside [.CF, .OF] s (u.withProduct r high) ∧ (u.withProduct r high).segs = s.segs ∧
    (u.withProduct r high).ads = seg ∧ busDid reads s (u.withProduct r high) ∧
    sameSequencer s (u.withProduct r high) := by
  obtain ⟨hovr, hrep, hfault, hinh, htrace, hsignal, hdraws⟩ := h.sequencer
  refine ⟨by simp [State.withProduct], by simp [State.withProduct], fun n hn => ?_, h.segs, h.ads, busDid_of_run h.bus,
    ⟨hovr, hrep, hfault, hinh, htrace, hsignal, hdraws⟩⟩
  rw [State.withProduct, getLsbD_setFlag, getLsbD_setFlag, if_neg (hn .OF (by decide)).symm,
    if_neg (hn .CF (by decide)).symm]
  exact congrArg (BitVec.getLsbD · n) h.flags

/-- Settles O29: AX holds the product (`toNat_product8` bounds it); the flags and the frame are
`operandsRead.withProduct`. -/
theorem mulByteWritesTheExactProduct : Obligations.MulByteWritesTheExactProduct := by
  intro e s
  refine ⟨rfl, _, congrArg Host.Outcome.next (mulByte_eq_withProduct e s), ?_, rfl,
    (operandsRead_saw8 s e).withProduct _ _⟩
  have hax := congrArg BitVec.toNat (s.regs.get16_set16 .ax .ax
    (BitVec.ofNat 16 ((s.regs.get8 .al).toNat * (s.byteAt e).toNat)))
  have hp := (product8 (s.regs.get8 .al) (s.byteAt e)).isLt
  rw [toNat_product8] at hp
  exact hax.trans (Nat.mod_eq_of_lt hp)

/-- Settles O30: DX and AX hold the product's two halves (`toNat_product16` bounds it); the rest as O29. -/
theorem mulWordWritesTheExactProduct : Obligations.MulWordWritesTheExactProduct := by
  intro e s
  refine ⟨rfl, _, congrArg Host.Outcome.next (mulWord_eq_withProduct e s), ?_, rfl,
    (operandsRead_saw16 s e).withProduct _ _⟩
  have hp := (product16 (s.regs.get16 .ax) (s.wordAt e)).isLt
  rw [toNat_product16] at hp
  generalize (s.regs.get16 .ax).toNat * (s.wordAt e).toNat = p at hp ⊢
  obtain ⟨hax, hdx⟩ := s.regs.get16_set_ax_dx (BitVec.ofNat 16 p) (BitVec.ofNat 16 (p / 65536))
  calc
    _ = (BitVec.ofNat 16 (p / 65536)).toNat * 65536 + (BitVec.ofNat 16 p).toNat :=
      congrArg₂ (fun d a : Word => d.toNat * 65536 + a.toNat) hdx hax
    _ = p := by
      rw [BitVec.toNat_ofNat, BitVec.toNat_ofNat]
      omega

/-! ### Division (R302) -/

@[simp] theorem dividend_useRM {R : Type} (s : State) (e : RM R) : (s.useRM e).dividend = s.dividend := by
  simp only [State.dividend, State.get16, State.useRM_regs]

theorem divWord_of_quotient_fits {e : RM Reg16} (hd : (s.wordAt e).toNat ≠ 0)
    (hq : s.dividend / (s.wordAt e).toNat ≤ 0xFFFF) :
    divWord e s = { (s.useRM e).saw16 (s.loc e) with
      regs := (s.regs.set16 .ax (BitVec.ofNat 16 (s.dividend / (s.wordAt e).toNat))).set16 .dx
        (BitVec.ofNat 16 (s.dividend % (s.wordAt e).toNat)) } := by
  simp only [divWord, read16_loc, dividend_useRM]
  rw [if_neg (by omega)]
  simp only [State.set16, State.saw16_regs, State.useRM_regs]

theorem divWord_of_division_fault {e : RM Reg16}
    (h : (s.wordAt e).toNat = 0 ∨ s.dividend / (s.wordAt e).toNat > 0xFFFF) :
    divWord e s = signalInterrupt 0 ((s.useRM e).saw16 (s.loc e)) := by
  simp only [divWord, read16_loc, dividend_useRM]
  exact if_pos h

/-- Settles O31: the read is `operandsRead_saw16`; quotient and remainder are below 2^16, so AX and DX hold them. -/
theorem divWritesQuotientAndRemainder : Obligations.DivWritesQuotientAndRemainder := by
  intro e s d n
  refine ⟨rfl, fun hd hq => ⟨_, congrArg Host.Outcome.next (divWord_of_quotient_fits hd hq), ?_⟩⟩
  have hr : n % d < 2 ^ 16 := Nat.lt_trans (Nat.mod_lt n (Nat.pos_of_ne_zero hd)) (s.wordAt e).isLt
  obtain ⟨-, hflags, hsegs, hads, hbus, hovr, hrep, hfault, hinh, htrace, hsignal, hdraws⟩ := operandsRead_saw16 s e
  obtain ⟨hax, hdx⟩ := s.regs.get16_set_ax_dx (BitVec.ofNat 16 (n / d)) (BitVec.ofNat 16 (n % d))
  refine ⟨?_, ?_, rfl, hflags, hsegs, hads, busDid_of_run hbus, ⟨hovr, hrep, hfault, hinh, htrace, hsignal, hdraws⟩⟩
  · exact (congrArg BitVec.toNat hax).trans (Nat.mod_eq_of_lt (Nat.lt_succ_of_le hq))
  · exact (congrArg BitVec.toNat hdx).trans (Nat.mod_eq_of_lt hr)

/-- Reading the operand changed ADS and the bus alone. -/
theorem operandsRead.eq (h : operandsRead reads seg s u) : u = { s with ads := seg, bus := s.bus.run reads } := by
  obtain ⟨hregs, hflags, hsegs, hads, hbus, hovr, hrep, hfault, hinh, htrace, hsignal, hdraws⟩ := h
  cases u
  subst_vars
  rfl

/-- The handler is not given ADS (R505): an interrupt signalled behind the read is one signalled in `s` with the bus
reads made. -/
theorem operandsRead.interruptTaken (h : operandsRead reads seg s u) (n : Byte) :
    interruptTaken n { s with bus := s.bus.run reads } (signalInterrupt n u) := by
  rw [h.eq]
  exact { interruptTaken_signal n _ with }

theorem execDiv_of_division_fault {e : RM Reg16}
    (h : (s.wordAt e).toNat = 0 ∨ s.dividend / (s.wordAt e).toNat > 0xFFFF) :
    ∃ t, exec (.divRm16 e) s = .next t ∧ interruptTaken 0 { s with bus := s.bus.run (s.reads16 e) } t ∧
      t.ads = s.rmSeg e :=
  have hread := operandsRead_saw16 s e
  ⟨_, congrArg Host.Outcome.next (divWord_of_division_fault h), hread.interruptTaken 0, hread.ads⟩

/-- With DX not below the divisor the quotient is at least 2^16. -/
theorem division_fault_of_le_dx {e : RM Reg16} (h : (s.wordAt e).toNat ≤ (s.regs.get16 .dx).toNat) :
    (s.wordAt e).toNat = 0 ∨ s.dividend / (s.wordAt e).toNat > 0xFFFF := by
  refine (Nat.eq_zero_or_pos _).imp_right fun hpos => ?_
  refine (Nat.le_div_iff_mul_le hpos).2 (calc
    65536 * (s.wordAt e).toNat ≤ (s.regs.get16 .dx).toNat * 65536 := by omega
    _ ≤ s.dividend := Nat.le_add_right _ _)

theorem execDiv_of_le_dx (e : RM Reg16) (s : State) (h : (s.wordAt e).toNat ≤ (s.regs.get16 .dx).toNat) :
    ∃ t, exec (.divRm16 e) s = .next t ∧ interruptTaken 0 { s with bus := s.bus.run (s.reads16 e) } t := by
  obtain ⟨t, hexec, hint, -⟩ := execDiv_of_division_fault (division_fault_of_le_dx h)
  exact ⟨t, hexec, hint⟩

/-- Settles O32: `execDiv_of_division_fault` and `execDiv_of_le_dx`; DX is not below itself, and reading it is no bus
read. -/
theorem divisionFaultSignalsInterruptZero : Obligations.DivisionFaultSignalsInterruptZero :=
  ⟨fun _ _ => execDiv_of_division_fault, execDiv_of_le_dx, fun s => execDiv_of_le_dx (.reg .dx) s (Nat.le_refl _)⟩

end Sys2Proof.Machine
end

section
/-! Data movement (43_move.md R320 to R335): a store is the decoding of its operand and one write, a load the decoding
and the reading of its operand (`operandsRead`) and one register or selector write. -/

namespace Sys2Proof.Machine

variable {s u : State} {reads : List BusOp} {seg : SegReg}

/-! ### ModRM values that are rejected (30_encoding.md R134) -/

theorem decode_of_modrmIllegal {op m : Byte} (h : modrmIllegal op m = true) (rest : List Byte) :
    decode (op :: m :: rest) = .error (.illegalModRM op m) :=
  decode_illegalModRM_iff.mpr ⟨rfl, rfl, h⟩

theorem modrmIllegal_C6_iff (m : Byte) : modrmIllegal 0xC6 m = true ↔ m.toNat / 8 % 8 ≠ 0 := by
  simp [modrmIllegal]

theorem modrmIllegal_C7_iff (m : Byte) : modrmIllegal 0xC7 m = true ↔ m.toNat / 8 % 8 ≠ 0 := by
  simp [modrmIllegal]

theorem modrmIllegal_8C_iff (m : Byte) : modrmIllegal 0x8C m = true ↔ 6 ≤ m.toNat / 8 % 8 := by
  have h : modrmIllegal 0x8C m = true ↔ m.toNat / 8 % 8 = 6 ∨ m.toNat / 8 % 8 = 7 := by simp [modrmIllegal]
  rw [h]
  omega

theorem modrmIllegal_8E_iff (m : Byte) :
    modrmIllegal 0x8E m = true ↔ m.toNat / 8 % 8 = 1 ∨ 6 ≤ m.toNat / 8 % 8 := by
  have h : modrmIllegal 0x8E m = true ↔ m.toNat / 8 % 8 = 1 ∨ m.toNat / 8 % 8 = 6 ∨ m.toNat / 8 % 8 = 7 := by
    simp [modrmIllegal, or_assoc]
  rw [h]
  omega

theorem modrmIllegal_8D_iff (m : Byte) : modrmIllegal 0x8D m = true ↔ 192 ≤ m.toNat := by
  have h : modrmIllegal 0x8D m = true ↔ m.toNat / 64 = 3 := by simp [modrmIllegal]
  have hm := m.isLt
  rw [h]
  omega

/-! ### Behind the reads -/

theorem sameSequencer.trans {t : State} (h : sameSequencer s u) (h' : sameSequencer u t) : sameSequencer s t :=
  ⟨h'.ovr.trans h.ovr, h'.rep.trans h.rep, h'.fault.trans h.fault, h'.inh.trans h.inh, h'.trace.trans h.trace,
    h'.signal.trans h.signal, h'.draws.trans h.draws⟩

/-- Decoding an operand reads nothing (R129). -/
theorem operandsRead_useRM {R : Type} (s : State) (e : RM R) : operandsRead [] (s.rmSeg e) s (s.useRM e) where
  regs := s.useRM_regs e
  flags := s.useRM_flags e
  segs := s.useRM_segs e
  ads := useRM_ads s e
  bus := s.useRM_bus e
  sequencer := by constructor <;> simp

theorem operandsRead_sawByte (s : State) (a : Addr) : operandsRead [.readByte a] s.ads s (s.sawByte a) :=
  ⟨rfl, rfl, rfl, rfl, rfl, ⟨rfl, rfl, rfl, rfl, rfl, rfl, rfl⟩⟩

theorem operandsRead_sawWord (s : State) (a : Addr) : operandsRead [.readWord a] s.ads s (s.sawWord a) :=
  ⟨rfl, rfl, rfl, rfl, rfl, ⟨rfl, rfl, rfl, rfl, rfl, rfl, rfl⟩⟩

/-- A write to an operand changes no flag and no segment. -/
theorem operandsRead.write_frame (h : operandsRead reads seg s u) {write : State → State} (hw : writesOperand write) :
    (write u).flags = s.flags ∧ (write u).segs = s.segs ∧ (write u).ads = seg ∧ sameSequencer s (write u) :=
  ⟨(hw.flags u).trans h.flags, (hw.segs u).trans h.segs, (hw.ads u).trans h.ads, h.sequencer.trans (hw.sequencer u)⟩

/-- A register write is a write to a register operand. -/
theorem operandsRead.set8 (h : operandsRead reads seg s u) (g : Reg8) (v : Byte) :
    (u.set8 g v).regs = s.regs.set8 g v ∧ (u.set8 g v).ads = seg ∧ (u.set8 g v).flags = s.flags ∧
    (u.set8 g v).segs = s.segs ∧ busDid reads s (u.set8 g v) ∧ sameSequencer s (u.set8 g v) := by
  obtain ⟨hflags, hsegs, hads, hseq⟩ := h.write_frame (writesOperand_write8 (.reg g) v)
  exact ⟨congrArg (RegFile.set8 · g v) h.regs, hads, hflags, hsegs, busDid_of_run h.bus, hseq⟩

theorem operandsRead.set16 (h : operandsRead reads seg s u) (g : Reg16) (v : Word) :
    (u.set16 g v).regs = s.regs.set16 g v ∧ (u.set16 g v).ads = seg ∧ (u.set16 g v).flags = s.flags ∧
    (u.set16 g v).segs = s.segs ∧ busDid reads s (u.set16 g v) ∧ sameSequencer s (u.set16 g v) := by
  obtain ⟨hflags, hsegs, hads, hseq⟩ := h.write_frame (writesOperand_write16 (.reg g) v)
  exact ⟨congrArg (RegFile.set16 · g v) h.regs, hads, hflags, hsegs, busDid_of_run h.bus, hseq⟩

/-! ### Stores (R320, R321, R324, R328, R329, R332, R333) -/

theorem movToRm8_writes (e : RM Reg8) (v : Byte) (s : State) :
    byteWritten e v [] s (movToRm8 e v s) ∧ (movToRm8 e v s).flags = s.flags ∧ (movToRm8 e v s).segs = s.segs ∧
    (movToRm8 e v s).ads = s.rmSeg e ∧ sameSequencer s (movToRm8 e v s) :=
  have hread := operandsRead_useRM s e
  ⟨byteWritten_write8 e v hread.regs hread.segs hread.ads hread.bus, hread.write_frame (writesOperand_write8 _ v)⟩

theorem movToRm16_writes (e : RM Reg16) (v : Word) (s : State) :
    wordWritten e v [] s (movToRm16 e v s) ∧ (movToRm16 e v s).flags = s.flags ∧ (movToRm16 e v s).segs = s.segs ∧
    (movToRm16 e v s).ads = s.rmSeg e ∧ sameSequencer s (movToRm16 e v s) :=
  have hread := operandsRead_useRM s e
  ⟨wordWritten_write16 e v hread.regs hread.segs hread.ads hread.bus, hread.write_frame (writesOperand_write16 _ v)⟩

/-- Settles O33: the ModRM forms are `movToRm8_writes`; the moffs form is one write on the bus. -/
theorem byteMovesWriteTheirDestination : Obligations.ByteMovesWriteTheirDestination := by
  refine ⟨fun e g ib off => ⟨rfl, rfl, rfl⟩,
    fun m rest hm => decode_of_modrmIllegal ((modrmIllegal_C6_iff m).mpr hm) rest,
    fun s => ⟨fun e g => ⟨_, rfl, movToRm8_writes e _ s⟩, fun e ib => ⟨_, rfl, movToRm8_writes e ib s⟩,
      fun off => ⟨_, rfl, rfl, rfl, rfl, rfl, write8_sequencer s (.mem off) _, busDid_of_run rfl, fun hp => ?_⟩⟩⟩
  exact Bus.readByte_after_writeByte _ hp.wf (hp.noDevice _ (by simp))

/-- Settles O34: the ModRM forms are `movToRm16_writes`; the moffs form is one write on the bus, low byte first. -/
theorem wordMovesWriteTheirDestination : Obligations.WordMovesWriteTheirDestination := by
  refine ⟨fun e g r iw off => ⟨rfl, rfl, rfl, rfl⟩,
    fun m rest hm => decode_of_modrmIllegal ((modrmIllegal_C7_iff m).mpr hm) rest,
    fun m rest hm => decode_of_modrmIllegal ((modrmIllegal_8C_iff m).mpr hm) rest,
    fun s => ⟨fun e g => ⟨_, rfl, movToRm16_writes e _ s⟩, fun e r => ⟨_, rfl, movToRm16_writes e _ s⟩,
      fun e iw => ⟨_, rfl, movToRm16_writes e iw s⟩,
      fun off => ⟨_, rfl, rfl, rfl, rfl, rfl, write16_sequencer s (.mem off) _, busDid_of_run rfl, fun hp => ?_⟩⟩⟩
  exact Bus.readByte_after_writeWord _ hp.wf (hp.noDevice _ (by simp)) (hp.noDevice _ (by simp))

/-! ### Loads (R322, R323, R325 to R327, R330, R331) -/

theorem movFromRm8_eq (g : Reg8) (e : RM Reg8) (s : State) :
    movFromRm8 g e s = ((s.useRM e).saw8 (s.loc e)).set8 g (s.byteAt e) := by
  rw [movFromRm8, read8_loc]

theorem movFromRm16_eq (g : Reg16) (e : RM Reg16) (s : State) :
    movFromRm16 g e s = ((s.useRM e).saw16 (s.loc e)).set16 g (s.wordAt e) := by
  rw [movFromRm16, read16_loc]

theorem movSreg_eq (r : SegReg) (e : RM Reg16) (s : State) :
    movSreg r e s = ((s.useRM e).saw16 (s.loc e)).loadSeg r (s.wordAt e) := by
  rw [movSreg, read16_loc]

/-- Settles O35: each form reads its operand, an immediate without the bus, and writes its register
(`operandsRead.set8`, `operandsRead.set16`). -/
theorem loadsWriteOnlyTheirRegister : Obligations.LoadsWriteOnlyTheirRegister :=
  ⟨fun _ _ _ _ => ⟨rfl, rfl, rfl⟩, fun _ _ _ _ => ⟨rfl, rfl, rfl⟩, fun s =>
    ⟨fun g e => ⟨_, congrArg Host.Outcome.next (movFromRm8_eq g e s), (operandsRead_saw8 s e).set8 g _⟩,
      fun g e => ⟨_, congrArg Host.Outcome.next (movFromRm16_eq g e s), (operandsRead_saw16 s e).set16 g _⟩,
      fun _ => ⟨_, rfl, (operandsRead_sawByte s _).set8 .al _⟩,
      fun _ => ⟨_, rfl, (operandsRead_sawWord s _).set16 .ax _⟩,
      fun r ib => ⟨_, rfl, (operandsRead_refl s).set8 r ib⟩,
      fun r iw => ⟨_, rfl, (operandsRead_refl s).set16 r iw⟩⟩⟩

/-- Settles O36: the read is `operandsRead_saw16`; a selector write gives the base (`toNat_base`) and leaves the other
segment registers (`SegFile.get_set`). -/
theorem movSregLoadsSelectorAndBase : Obligations.MovSregLoadsSelectorAndBase := by
  refine ⟨fun m rest hm => decode_of_modrmIllegal ((modrmIllegal_8E_iff m).mpr hm) rest, fun r e s _ =>
    ⟨rfl, _, congrArg Host.Outcome.next (movSreg_eq r e s), ?_⟩⟩
  obtain ⟨hregs, hflags, hsegs, hads, hbus, hseq⟩ := operandsRead_saw16 s e
  have hget (q : SegReg) : (((s.useRM e).saw16 (s.loc e)).loadSeg r (s.wordAt e)).segs.get q =
      if q = r then .load (s.wordAt e) else s.segs.get q := by
    rw [State.loadSeg_segs, hsegs, SegFile.get_set]
  have hr := (hget r).trans (if_pos rfl)
  refine ⟨congrArg SegEntry.sel hr, ?_, fun q hq => (hget q).trans (if_neg hq), hregs, hflags, hads, busDid_of_run hbus,
    hseq.trans ⟨rfl, rfl, rfl, rfl, rfl, rfl, rfl⟩⟩
  rw [hr]
  exact toNat_base _

/-! ### LEA and NOP (R334, R335) -/

theorem exec_leaR16M (g : Reg16) (m : MemForm) (s : State) :
    exec (.leaR16M g m) s = .next ((s.useMem m).set16 g (m.offset s.regs)) := rfl

/-- LEA answers registers that are a function of the registers alone. -/
theorem regs_of_exec_leaR16M {g : Reg16} {m : MemForm} {t : State} (h : exec (.leaR16M g m) s = .next t) :
    t.regs = s.regs.set16 g (m.offset s.regs) := by
  cases (exec_leaR16M g m s).symm.trans h
  rfl

/-- Settles O37: LEA decodes its operand, reads nothing and writes a register; what it writes depends on the registers
alone (`regs_of_exec_leaR16M`). -/
theorem leaWritesTheOffsetAndNopNothing : Obligations.LeaWritesTheOffsetAndNopNothing := by
  refine ⟨fun g m s => ?_, fun m g s r b bus t u ht hu => ?_, fun _ _ => rfl,
    fun m rest hm => decode_of_modrmIllegal ((modrmIllegal_8D_iff m).mpr hm) rest, rfl, fun _ => rfl⟩
  · obtain ⟨hregs, hads, hflags, hsegs, hbus, hseq⟩ :=
      (operandsRead_useRM s (.mem m : RM Reg16)).set16 g (m.offset s.regs)
    exact ⟨_, exec_leaR16M g m s, hregs, hflags, hsegs, hads, hbus, hseq⟩
  · exact (regs_of_exec_leaR16M hu).trans (regs_of_exec_leaR16M ht).symm

end Sys2Proof.Machine
end

section
/-! PUSH and POP (44_stack.md R360 to R371): what `push16`, `pop16` and a selector write leave, each said once; the
instructions are these and a register write, and the round trip is `stackTop_push16`. -/

namespace Sys2Proof.Machine

variable {s : State}

/-! ### Push16 and Pop16 (R360, R361) -/

/-- On plain memory a push leaves the low byte at the new SS:SP and the high byte above it. -/
theorem readByte_push16 (v : Word)
    (hp : s.plainAt [s.segAddr .ss (s.get16 .sp - 2), s.segAddr .ss (s.get16 .sp - 2) + 1]) :
    (s.push16 v).readByte (s.segAddr .ss (s.get16 .sp - 2)) = loByte v ∧
    (s.push16 v).readByte (s.segAddr .ss (s.get16 .sp - 2) + 1) = hiByte v :=
  Bus.readByte_after_writeWord v hp.wf (hp.noDevice _ (by simp)) (hp.noDevice _ (by simp))

theorem busDid_push16 (s : State) (v : Word) :
    busDid [.writeWord (s.segAddr .ss (s.get16 .sp - 2)) v] s (s.push16 v) := busDid_of_run rfl

theorem push16_sequencer (s : State) (v : Word) : sameSequencer s (s.push16 v) := by constructor <;> simp

theorem busDid_pop16 (s : State) : busDid [.readWord (s.segAddr .ss (s.get16 .sp))] s s.pop16 := busDid_of_run rfl

theorem pop16_sequencer (s : State) : sameSequencer s s.pop16 := by constructor <;> simp

/-! ### PUSH (R363, R365 to R368) -/

/-- Settles O38: each PUSH is `push16` of the word it names, taken before SP moves; `push16` writes SP and one word on
the bus. -/
theorem pushStoresTheWordBelowTheStack : Obligations.PushStoresTheWordBelowTheStack := by
  intro s i op v h
  have hpush : encode i = [op] ∧ exec i s = .next (s.push16 v) := by
    obtain ⟨r, rfl, rfl, rfl⟩ | ⟨rfl, rfl, rfl⟩ | ⟨rfl, rfl, rfl⟩ | ⟨rfl, rfl, rfl⟩ | ⟨rfl, rfl, rfl⟩ := h
    all_goals exact ⟨rfl, rfl⟩
  obtain ⟨hcode, hexec⟩ := hpush
  exact ⟨hcode, _, hexec, s.push16_regs v, busDid_push16 s v, readByte_push16 v, s.push16_flags v, s.push16_segs v,
    s.push16_ads v, push16_sequencer s v⟩

/-! ### POP (R364, R369 to R371) -/

/-- A selector write gives that register the selector and its base, and leaves the others (R41). -/
theorem loadSeg_loads (s : State) (r : SegReg) (v : Word) :
    ((s.loadSeg r v).segs.get r).sel = v ∧ ((s.loadSeg r v).segs.get r).base.toNat = v.toNat * 16 ∧
    ∀ q, q ≠ r → (s.loadSeg r v).segs.get q = s.segs.get q := by
  have hr : (s.loadSeg r v).segs.get r = .load v := by simp
  rw [hr]
  exact ⟨rfl, toNat_base v, fun q hq => by simp [hq]⟩

/-- What POP of a segment register leaves: SP moved, the word popped in that register, one read on the bus. -/
theorem popSeg_effect (r : SegReg) (s : State) :
    (popSeg r s).regs = s.regs.set16 .sp (s.get16 .sp + 2) ∧ ((popSeg r s).segs.get r).sel = s.stackTop ∧
    ((popSeg r s).segs.get r).base.toNat = s.stackTop.toNat * 16 ∧
    (∀ q, q ≠ r → (popSeg r s).segs.get q = s.segs.get q) ∧ (popSeg r s).flags = s.flags ∧
    (popSeg r s).ads = s.ads ∧ busDid [.readWord (s.segAddr .ss (s.get16 .sp))] s (popSeg r s) ∧
    sameSequencer s (popSeg r s) := by
  obtain ⟨hsel, hbase, hother⟩ := loadSeg_loads s.pop16 r s.stackTop
  exact ⟨rfl, hsel, hbase, hother, rfl, rfl, { busDid_pop16 s with }, { pop16_sequencer s with }⟩

/-- Settles O39: POP r16 is `pop16` and a register write, after which POP SP leaves the word; POP of a segment register
is `popSeg_effect`. -/
theorem popLoadsTheWordOnTheStack : Obligations.PopLoadsTheWordOnTheStack := by
  refine fun s => ⟨fun r => ⟨rfl, _, rfl, rfl, rfl, rfl, rfl, { busDid_pop16 s with }, { pop16_sequencer s with }⟩,
    fun i op r h => ?_⟩
  obtain ⟨rfl, rfl, rfl⟩ | ⟨rfl, rfl, rfl⟩ | ⟨rfl, rfl, rfl⟩ := h
  all_goals exact ⟨rfl, _, rfl, popSeg_effect _ s⟩

/-! ### The round trip (R362) -/

/-- SP is where it was after a push and a pop, whatever memory answers: the 2 is taken and given back mod 2^16. -/
theorem get16_sp_pop16_push16 (s : State) (v : Word) : (s.push16 v).pop16.get16 .sp = s.get16 .sp := by
  rw [get16_sp_pop16, get16_sp_push16, BitVec.sub_add_cancel]

theorem State.get16_set16 (s : State) (a b : Reg16) (v : Word) :
    (s.set16 a v).get16 b = if b = a then v else s.get16 b := RegFile.get16_set16 s.regs a b v

/-- Settles O40: the word comes back by `stackTop_push16`, SP by `get16_sp_pop16_push16`; POP's register write touches
SP only where SP is the destination. -/
theorem pushThenPopRoundTrips : Obligations.PushThenPopRoundTrips := by
  intro s a hp
  refine ⟨fun v => ⟨stackTop_push16 v hp, get16_sp_pop16_push16 s v⟩, fun t u r q ht hu => ?_⟩
  cases ht
  cases hu
  refine ⟨?_, fun hq => ?_⟩
  · rw [State.get16_set16, if_pos rfl, stackTop_push16 _ hp]
  · rw [State.get16_set16, if_neg hq.symm, get16_sp_pop16_push16]

end Sys2Proof.Machine
end

section
/-! Jumps, calls and returns (45_control.md R390 to R416): where a relative and a far transfer land, what one and two
pushes leave on the stack, what a pop and a return leave; a call is its pushes and a transfer, and a return right after
a call reads the words the call's own statement says are there. -/

namespace Sys2Proof.Machine

variable {s t : State}

/-! ### Transfers (R390) -/

/-- A 16-bit displacement is its signed value mod 2^16 (30_encoding.md R132). -/
theorem toNat_eq_toInt_emod (d : Word) : (d.toNat : Int) = d.toInt % 65536 := by
  rw [toNat_emod, BitVec.toInt_eq_toNat_bmod]
  exact Int.bmod_emod.symm

theorem busDid_jumpRel (s : State) (rel : Word) : busDid [] s (s.jumpRel rel) := busDid_nil rfl

theorem jumpRel_sequencer (s : State) (rel : Word) : sameSequencer s (s.jumpRel rel) := by constructor <;> simp

theorem busDid_jumpFar (s : State) (off sel : Word) : busDid [] s (s.jumpFar off sel) := busDid_nil rfl

theorem jumpFar_sequencer (s : State) (off sel : Word) : sameSequencer s (s.jumpFar off sel) := by constructor <;> simp

/-- A relative jump lands at next plus the displacement, known mod 2^16. -/
theorem toNat_ip_jumpRel (s : State) {rel : Word} {d : Int} (h : (rel.toNat : Int) = d % 65536) :
    ((s.jumpRel rel).ip.toNat : Int) = (s.ip.toNat + d) % 65536 := by
  rw [ip_jumpRel]
  exact toNat_add_emod (Nat.mod_eq_of_lt s.ip.isLt).symm h

/-- A relative jump writes IP and nothing else. -/
theorem jumpRel_eq_setIp (s : State) (rel : Word) : s.jumpRel rel = s.setIp (s.jumpRel rel).ip := by
  rw [ip_jumpRel]
  rfl

theorem jumpRel_regs_ip (s : State) (rel : Word) : (s.jumpRel rel).regs = s.regs.setR16 .ip (s.jumpRel rel).ip :=
  congrArg State.regs (jumpRel_eq_setIp s rel)

/-- A far transfer loads CS as a selector write does (R41), whatever it makes of IP. -/
theorem jumpFar_loads (s : State) (off sel : Word) :
    ((s.jumpFar off sel).segs.get .cs).sel = sel ∧ ((s.jumpFar off sel).segs.get .cs).base.toNat = sel.toNat * 16 ∧
    ∀ q, q ≠ .cs → (s.jumpFar off sel).segs.get q = s.segs.get q :=
  loadSeg_loads s .cs sel

/-- Settles O41: a relative jump lands by `toNat_ip_jumpRel`, a far one loads CS by `jumpFar_loads`. -/
theorem jumpsGoToTheirTarget : Obligations.JumpsGoToTheirTarget := by
  refine fun s => ⟨fun d => ⟨rfl, _, rfl, toNat_ip_jumpRel s (toNat_sext16 d), jumpRel_regs_ip s _, rfl, rfl, rfl,
      busDid_jumpRel s _, jumpRel_sequencer s _⟩,
    fun d => ⟨rfl, _, rfl, toNat_ip_jumpRel s (toNat_eq_toInt_emod d), jumpRel_regs_ip s _, rfl, rfl, rfl,
      busDid_jumpRel s _, jumpRel_sequencer s _⟩,
    fun off sel => ?_⟩
  obtain ⟨hsel, hbase, hother⟩ := jumpFar_loads s off sel
  exact ⟨rfl, _, rfl, rfl, hsel, hbase, hother, rfl, rfl, busDid_jumpFar s _ _, jumpFar_sequencer s _ _⟩

/-! ### Conditional jumps (R394) -/

theorem encode_jcc (c : Cond) (d : Byte) : encode (.jcc c d) = [BitVec.ofNat 8 (0x70 + condCode c), d] := by
  cases c <;> rfl

/-- The model's condition is the row of the table. -/
theorem cond_iff_jumpTaken (s : State) (c : Cond) : s.cond c = true ↔ jumpTaken c s := by
  cases c <;> simp [State.cond, jumpTaken]

theorem jccInstr_of_jumpTaken {c : Cond} (h : jumpTaken c s) (d : Byte) : jccInstr c d s = s.jumpRel (sext16 d) :=
  if_pos ((cond_iff_jumpTaken s c).mpr h)

theorem jccInstr_of_not_jumpTaken {c : Cond} (h : ¬ jumpTaken c s) (d : Byte) : jccInstr c d s = s :=
  if_neg (mt (cond_iff_jumpTaken s c).mp h)

/-- Settles O42: on the condition of its row a conditional jump is the relative jump, else it is nothing. -/
theorem conditionalJumpsFollowTheConditionTable : Obligations.ConditionalJumpsFollowTheConditionTable := by
  refine fun c d s => ⟨encode_jcc c d, _, exec_jcc c d s, fun h => ?_, fun h => jccInstr_of_not_jumpTaken h d⟩
  rw [jccInstr_of_jumpTaken h]
  exact ⟨toNat_ip_jumpRel s (toNat_sext16 d), jumpRel_eq_setIp s _⟩

/-! ### Two words on the stack (44_stack.md R360) -/

theorem State.plainAt.of_append {as bs : List Addr} (h : s.plainAt (as ++ bs)) : s.plainAt as ∧ s.plainAt bs :=
  ⟨⟨h.wf, fun a ha => h.noDevice a (List.mem_append_left bs ha)⟩,
    h.wf, fun a ha => h.noDevice a (List.mem_append_right as ha)⟩

/-- Bus operations leave plain memory where it was. -/
theorem busDid.plainAt {ops : List BusOp} {as : List Addr} (h : busDid ops s t) (hp : s.plainAt as) : t.plainAt as := by
  refine ⟨?_, fun a ha => ?_⟩ <;> rw [h.bus]
  · exact Bus.run_wf ops hp.wf
  · exact (Bus.isDevice_run _ ops a).trans (hp.noDevice a ha)

/-- A word two below an offset mod 2^16 never reaches the two bytes at it: the offset may wrap, a word that begins at
offset 0xFFFF does not (20_memory.md R87). -/
theorem segAddr_not_mem_stores_below (s : State) (r : SegReg) (x v : Word) :
    s.segAddr r x ∉ (BusOp.writeWord (s.segAddr r (x - 2)) v).stores ∧
    s.segAddr r x + 1 ∉ (BusOp.writeWord (s.segAddr r (x - 2)) v).stores := by
  simp only [BusOp.stores, State.segAddr, List.mem_cons, List.not_mem_nil, or_false, not_or]
  refine ⟨⟨?_, ?_⟩, ?_, ?_⟩ <;> bv_omega

/-- On plain memory a push leaves the word that was on top of the stack. -/
theorem readWord_push16_top (w : Word)
    (hp : s.plainAt [s.segAddr .ss (s.get16 .sp), s.segAddr .ss (s.get16 .sp) + 1]) :
    (s.push16 w).readWord (s.segAddr .ss (s.get16 .sp)) = s.stackTop := by
  have h := hp.noDevice (s.segAddr .ss (s.get16 .sp)) (by simp)
  have h1 := hp.noDevice (s.segAddr .ss (s.get16 .sp) + 1) (by simp)
  obtain ⟨hlo, hhi⟩ := segAddr_not_mem_stores_below s .ss (s.get16 .sp) w
  rw [State.stackTop, State.readWord, State.readWord, State.push16_bus, Bus.readWord_plain (by simpa using h)
    (by simpa using h1), Bus.readWord_plain h h1, Bus.readByte_after_other h hlo, Bus.readByte_after_other h1 hhi]

theorem segAddr_push16 (s : State) (v : Word) (r : SegReg) (off : Word) :
    (s.push16 v).segAddr r off = s.segAddr r off := rfl

theorem sub_two_sub_two (x : Word) : x - 2 - 2 = x - 4 := BitVec.sub_sub x 2 2

theorem push16_push16_regs (s : State) (v w : Word) :
    ((s.push16 v).push16 w).regs = s.regs.set16 .sp (s.get16 .sp - 4) := by
  rw [State.push16_regs, State.push16_regs, RegFile.set16_set16, get16_sp_push16, sub_two_sub_two]

/-- On plain memory two pushes leave the second word on top and the first above it. -/
theorem readWord_push16_push16 (v w : Word)
    (hp : s.plainAt [s.segAddr .ss (s.get16 .sp - 2), s.segAddr .ss (s.get16 .sp - 2) + 1,
      s.segAddr .ss (s.get16 .sp - 4), s.segAddr .ss (s.get16 .sp - 4) + 1]) :
    ((s.push16 v).push16 w).readWord (s.segAddr .ss (s.get16 .sp - 4)) = w ∧
    ((s.push16 v).push16 w).readWord (s.segAddr .ss (s.get16 .sp - 2)) = v := by
  obtain ⟨hpa, hpb⟩ := State.plainAt.of_append (as := [_, _]) hp
  have htop := readWord_push16 (s := s.push16 v) w
  have habove := readWord_push16_top (s := s.push16 v) w
  rw [get16_sp_push16, sub_two_sub_two, segAddr_push16] at htop
  rw [get16_sp_push16, segAddr_push16, stackTop_push16 v hpa] at habove
  exact ⟨htop ((busDid_push16 s v).plainAt hpb), habove ((busDid_push16 s v).plainAt hpa)⟩

theorem busDid_push16_push16 (s : State) (v w : Word) :
    busDid [.writeWord (s.segAddr .ss (s.get16 .sp - 2)) v, .writeWord (s.segAddr .ss (s.get16 .sp - 4)) w] s
      ((s.push16 v).push16 w) := by
  have hsp : s.get16 .sp - 4 = (s.push16 v).get16 .sp - 2 := by rw [get16_sp_push16, sub_two_sub_two]
  rw [hsp]
  exact busDid_of_run rfl

/-! ### Calls (R411, R412) -/

/-- Settles O43: a call is its pushes, then the transfer; the words stand by `readWord_push16` and
`readWord_push16_push16`. -/
theorem callsPushTheReturnAddress : Obligations.CallsPushTheReturnAddress := by
  refine fun s => ⟨fun d => ⟨rfl, _, rfl, ?_, ?_, { busDid_push16 s s.ip with }, readWord_push16 s.ip, rfl, rfl, rfl,
    (push16_sequencer s s.ip).trans (jumpRel_sequencer _ d)⟩, fun off sel => ?_⟩
  · have hland := toNat_ip_jumpRel (s.push16 s.ip) (toNat_eq_toInt_emod d)
    rwa [ip_push16] at hland
  · exact jumpRel_regs_ip (s.push16 s.ip) d
  · obtain ⟨hsel, hbase, hother⟩ := jumpFar_loads ((s.push16 (s.segs.get .cs).sel).push16 s.ip) off sel
    have hbus := busDid_push16_push16 s (s.segs.get .cs).sel s.ip
    have hseq := (push16_sequencer s (s.segs.get .cs).sel).trans (push16_sequencer _ s.ip)
    exact ⟨rfl, _, rfl, congrArg (RegFile.setR16 · .ip off) (push16_push16_regs s _ s.ip), { hbus with },
      readWord_push16_push16 (s.segs.get .cs).sel s.ip, hsel, hbase, hother, rfl, rfl,
      hseq.trans (jumpFar_sequencer _ off sel)⟩

/-! ### Returns (R413 to R416) -/

/-- IP and a word register are different slots, so the order of their writes does not show. -/
theorem RegFile.set16_setIp (r : RegFile) (a : Reg16) (v w : Word) :
    (r.setR16 .ip v).set16 a w = (r.set16 a w).setR16 .ip v :=
  r.setR16_comm v w (Reg16.slot_ne_ip a).symm

theorem retNear_regs (k : Word) (s : State) :
    (retNear k s).regs = (s.regs.set16 .sp (s.get16 .sp + 2 + k)).setR16 .ip s.stackTop := by
  simp [retNear, State.get16, RegFile.set16_setIp]

theorem retFar_regs (k : Word) (s : State) :
    (retFar k s).regs = (s.regs.set16 .sp (s.get16 .sp + 4 + k)).setR16 .ip s.stackTop := by
  simp [retFar, State.get16, RegFile.set16_setIp, BitVec.add_assoc]

theorem busDid_retNear (k : Word) (s : State) :
    busDid [.readWord (s.segAddr .ss (s.get16 .sp))] s (retNear k s) := busDid_of_run rfl

theorem retNear_sequencer (k : Word) (s : State) : sameSequencer s (retNear k s) := by constructor <;> simp [retNear]

theorem retFar_sequencer (k : Word) (s : State) : sameSequencer s (retFar k s) := by constructor <;> simp [retFar]

/-- SP is where the first pop left it, when the far return takes its second word. -/
theorem get16_sp_pop16_setIp (s : State) (v : Word) : (s.pop16.setIp v).get16 .sp = s.get16 .sp + 2 := by
  simp [State.get16]

theorem busDid_retFar (k : Word) (s : State) :
    busDid [.readWord (s.segAddr .ss (s.get16 .sp)), .readWord (s.segAddr .ss (s.get16 .sp + 2))] s (retFar k s) := by
  refine busDid_of_run ?_
  rw [← get16_sp_pop16_setIp s s.stackTop]
  rfl

/-- A far return loads CS with the word above the one it pops into IP, read after it. -/
theorem retFar_loads (k : Word) (s : State) :
    let cs := (s.sawWord (s.segAddr .ss (s.get16 .sp))).readWord (s.segAddr .ss (s.get16 .sp + 2))
    ((retFar k s).segs.get .cs).sel = cs ∧ ((retFar k s).segs.get .cs).base.toNat = cs.toNat * 16 ∧
    ∀ q, q ≠ .cs → (retFar k s).segs.get q = s.segs.get q := by
  rw [← get16_sp_pop16_setIp s s.stackTop]
  exact loadSeg_loads (s.pop16.setIp s.stackTop).pop16 .cs (s.pop16.setIp s.stackTop).stackTop

/-- Settles O44: the forms without a count are those with the count 0. -/
theorem returnsPopTheirTarget : Obligations.ReturnsPopTheirTarget := by
  refine ⟨⟨rfl, rfl, fun k => ⟨rfl, rfl⟩⟩, fun s i k => ⟨fun h => ?_, fun h => ?_⟩⟩
  · have hexec : exec i s = .next (retNear k s) := by obtain ⟨rfl, rfl⟩ | rfl := h <;> rfl
    exact ⟨_, hexec, retNear_regs k s, rfl, rfl, rfl, busDid_retNear k s, retNear_sequencer k s⟩
  · have hexec : exec i s = .next (retFar k s) := by obtain ⟨rfl, rfl⟩ | rfl := h <;> rfl
    obtain ⟨hsel, hbase, hother⟩ := retFar_loads k s
    exact ⟨_, hexec, retFar_regs k s, hsel, hbase, hother, rfl, rfl, busDid_retFar k s, retFar_sequencer k s⟩

/-! ### A return right after a call (R411 to R415) -/

/-- Reading a word of plain memory leaves the state as it was. -/
theorem sawWord_plain {a : Addr} (hp : s.plainAt [a, a + 1]) : s.sawWord a = s := by
  rw [State.sawWord, Bus.after_readWord (hp.noDevice a (by simp)) (hp.noDevice (a + 1) (by simp))]

/-- A linear address reads one segment register. -/
theorem segAddr_of_get_eq {r : SegReg} (h : t.segs.get r = s.segs.get r) (off : Word) :
    t.segAddr r off = s.segAddr r off :=
  congrArg (fun e : SegEntry => e.base + off.setWidth 32) h

/-- IP and SP of a register file in which both were written. -/
theorem ip_and_sp_of_regs {x v : Word} (h : t.regs = (s.regs.set16 .sp x).setR16 .ip v) :
    t.ip = v ∧ t.regs.get16 .sp = x := by
  simp [State.ip, h]

/-- Settles O45: the call leaves the words (O43) that the return pops (O44); SP goes down and up by the same count. -/
theorem returnAfterCallComesBack : Obligations.ReturnAfterCallComesBack := by
  intro s t u a b
  obtain ⟨hcall, hcallFar⟩ := callsPushTheReturnAddress s
  refine ⟨fun d hp ht hu => ?_, fun off sel hp ht hu => ?_⟩
  · obtain ⟨-, t', ht', -, htregs, -, hword, htsegs, -⟩ := hcall d
    cases ht.symm.trans ht'
    obtain ⟨u', hu', huregs, -⟩ := (returnsPopTheirTarget.2 t .ret 0).1 (.inl ⟨rfl, rfl⟩)
    cases hu.symm.trans hu'
    obtain ⟨-, hsp⟩ := ip_and_sp_of_regs htregs
    obtain ⟨huip, husp⟩ := ip_and_sp_of_regs huregs
    rw [hsp, State.segAddr_congr htsegs, hword hp] at huip
    rw [hsp, BitVec.sub_add_cancel] at husp
    exact ⟨huip, husp.trans (BitVec.add_zero _)⟩
  · obtain ⟨-, t', ht', htregs, htbus, hwords, -, -, hother, -⟩ := hcallFar off sel
    cases ht.symm.trans ht'
    obtain ⟨u', hu', huregs, hucs, -⟩ := (returnsPopTheirTarget.2 t .retf 0).2 (.inl ⟨rfl, rfl⟩)
    cases hu.symm.trans hu'
    obtain ⟨-, hsp⟩ := ip_and_sp_of_regs htregs
    obtain ⟨huip, husp⟩ := ip_and_sp_of_regs huregs
    obtain ⟨hip, hcs⟩ := hwords hp
    have hseg := segAddr_of_get_eq (hother .ss (by decide))
    have hup : s.regs.get16 .sp - 4 + 2 = s.regs.get16 .sp - 2 := by rw [← sub_two_sub_two, BitVec.sub_add_cancel]
    have hsaw : t.sawWord (s.segAddr .ss (s.regs.get16 .sp - 4)) = t :=
      sawWord_plain (htbus.plainAt (State.plainAt.of_append (as := [_, _]) hp).2)
    rw [hsp, hseg, hip] at huip
    rw [hsp, BitVec.sub_add_cancel] at husp
    rw [hsp, hseg, hup, hseg, hsaw, hcs] at hucs
    exact ⟨huip, husp.trans (BitVec.add_zero _), hucs⟩

end Sys2Proof.Machine
end

section
/-! String instructions (46_string.md R430 to R434): what the loop of R431 needs of a unit, said once for the three; the
repetition as CX units, one after the other, and by induction on how many what they leave in CX, SI and DI and, for MOVSB
on plain memory, at each address. -/

namespace Sys2Proof.Machine

variable {i : Instr} {unit : State → State} {s t : State} {k n : Nat}

/-! ### One unit (R430, R432 to R434) -/

/-- On plain memory the byte MOVSB stores is the one it read. -/
theorem readByte_movsbUnit_dst (hp : s.plainAt [s.stringDst]) :
    (movsbUnit s).readByte s.stringDst = s.readByte s.stringSrc := by
  rw [State.readByte, movsbUnit_bus]
  exact Bus.readByte_after_writeByte _ (Bus.after_wf _ hp.wf) (by simpa using hp.noDevice _ (by simp))

theorem statusIs.congr {fl : StatusFlags} (h : statusIs fl s) (hf : t.flags = s.flags) : statusIs fl t := by
  obtain ⟨hcf, hpf, haf, hzf, hsf, hovf⟩ := h
  constructor <;> rwa [State.flag_congr hf]

/-- CMPSB writes the six status flags, those of the subtraction, and no other. -/
theorem cmpsbUnit_status (s : State) :
    statusIs (subB (s.readByte s.stringSrc) ((s.sawByte s.stringSrc).readByte s.stringDst) false).2 (cmpsbUnit s) ∧
    sameFlagsOutside statusBits s (cmpsbUnit s) := by
  refine ⟨(statusIs_setStatus s _).congr (cmpsbUnit_flags s), fun n hn => ?_⟩
  rw [cmpsbUnit_flags, getLsbD_setStatus _ _ hn]

/-! ### What the three units have in common -/

/-- The instruction runs `unit` under `StringExec`, and the unit leaves to the loop what the loop needs. -/
structure stringUnit (i : Instr) (unit : State → State) : Prop where
  runs : ∀ s, exec i s = .next (stringExec unit s)
  withRep : ∀ s b, unit { s with rep := b } = { unit s with rep := b }
  rep : ∀ s, (unit s).rep = s.rep
  delta : ∀ s, (unit s).delta = s.delta
  cx : ∀ s, (unit s).get16 .cx = s.get16 .cx
  si : ∀ s, (unit s).get16 .si = s.get16 .si + s.delta
  di : ∀ s, (unit s).get16 .di = if i = .lodsb then s.get16 .di else s.get16 .di + s.delta
  segs : ∀ s, (unit s).segs = s.segs
  ads : ∀ s, (unit s).ads = s.ads
  bus : ∀ s, ∃ ops, (unit s).bus = s.bus.run ops

theorem stringUnit_movsb : stringUnit .movsb movsbUnit where
  runs _ := rfl
  withRep := movsbUnit_withRep
  rep s := (movsbUnit_sequencer s).rep
  delta := delta_movsbUnit
  cx := movsbUnit_cx
  si := movsbUnit_si
  di := movsbUnit_di
  segs := movsbUnit_segs
  ads := movsbUnit_ads
  bus s := ⟨_, movsbUnit_bus s⟩

theorem stringUnit_cmpsb : stringUnit .cmpsb cmpsbUnit where
  runs _ := rfl
  withRep := cmpsbUnit_withRep
  rep s := (cmpsbUnit_sequencer s).rep
  delta := delta_cmpsbUnit
  cx := cmpsbUnit_cx
  si := cmpsbUnit_si
  di := cmpsbUnit_di
  segs := cmpsbUnit_segs
  ads := cmpsbUnit_ads
  bus s := ⟨_, cmpsbUnit_bus s⟩

theorem stringUnit_lodsb : stringUnit .lodsb lodsbUnit where
  runs _ := rfl
  withRep := lodsbUnit_withRep
  rep s := (lodsbUnit_sequencer s).rep
  delta := delta_lodsbUnit
  cx := lodsbUnit_cx
  si := lodsbUnit_si
  di := lodsbUnit_di
  segs := lodsbUnit_segs
  ads := lodsbUnit_ads
  bus s := ⟨_, lodsbUnit_bus s⟩

theorem exists_stringUnit (h : i = .movsb ∨ i = .cmpsb ∨ i = .lodsb) : ∃ unit, stringUnit i unit := by
  obtain rfl | rfl | rfl := h
  · exact ⟨_, stringUnit_movsb⟩
  · exact ⟨_, stringUnit_cmpsb⟩
  · exact ⟨_, stringUnit_lodsb⟩

/-! ### Without REP -/

theorem stringUnit.exec_of_not_rep (h : stringUnit i unit) (hr : s.rep = false) : exec i s = .next (unit s) := by
  rw [h.runs, stringExec_of_not_rep hr]

/-- Settles O46: without REP the instruction is its unit, which the laws of the units describe field by field. -/
theorem aStringInstructionDoesOneUnit : Obligations.AStringInstructionDoesOneUnit := by
  refine ⟨⟨rfl, rfl, rfl⟩, fun s hr => ?_⟩
  simp only [← add_delta]
  obtain ⟨hstatus, hother⟩ := cmpsbUnit_status s
  exact ⟨⟨_, stringUnit_movsb.exec_of_not_rep hr, movsbUnit_regs s, busDid_of_run (movsbUnit_bus s),
      readByte_movsbUnit_dst, rfl, rfl, rfl, movsbUnit_sequencer s⟩,
    ⟨_, stringUnit_cmpsb.exec_of_not_rep hr, cmpsbUnit_regs s, hstatus, hother, busDid_of_run (cmpsbUnit_bus s),
      cmpsbUnit_segs s, cmpsbUnit_ads s, cmpsbUnit_sequencer s⟩,
    _, stringUnit_lodsb.exec_of_not_rep hr, lodsbUnit_regs s, busDid_of_run (lodsbUnit_bus s), rfl, rfl, rfl,
    lodsbUnit_sequencer s⟩

/-! ### The loop, one unit at a time (R431) -/

theorem State.withRep_self {b : Bool} (h : s.rep = b) : { s with rep := b } = s := by
  subst h
  rfl

/-- A unit run with REP taken away, and REP given back, is the unit. -/
theorem stringUnit.withRep_withRep (h : stringUnit i unit) (hr : s.rep = true) :
    { unit { s with rep := false } with rep := true } = unit s := by
  rw [h.withRep]
  exact State.withRep_self ((h.rep s).trans hr)

theorem stringUnit.unroll (h : stringUnit i unit) (hr : s.rep = true) (hcx : s.get16 .cx ≠ 0) :
    stringExec unit s = stringExec unit (unit s).decCx :=
  stringExec_unroll (h.cx s) (h.rep s) hr hcx

/-- Settles O47: `stringExec_of_cx_zero` and `stringExec_unroll`; the unit is the same without REP. -/
theorem repeatUnrollsOneUnitAtATime : Obligations.RepeatUnrollsOneUnitAtATime := by
  intro i s hi hr
  obtain ⟨unit, h⟩ := exists_stringUnit hi
  refine ⟨fun hcx => ?_, fun hcx => ⟨unit { s with rep := false }, ?_, ?_⟩⟩
  · rw [h.runs, stringExec_of_cx_zero hr hcx]
  · exact h.exec_of_not_rep rfl
  · rw [h.withRep_withRep hr, h.runs, h.runs, h.unroll hr hcx, State.decCx, h.cx]

/-! ### The loop as CX units -/

/-- The state after `k` units, each with CX counted down. -/
def afterUnits (unit : State → State) (k : Nat) (s : State) : State := (fun t => (unit t).decCx)^[k] s

@[simp] theorem afterUnits_zero (unit : State → State) (s : State) : afterUnits unit 0 s = s := rfl

/-- The first of the units split off. -/
theorem afterUnits_succ' (unit : State → State) (k : Nat) (s : State) :
    afterUnits unit (k + 1) s = afterUnits unit k (unit s).decCx := rfl

/-- The last of the units split off. -/
theorem afterUnits_succ (unit : State → State) (k : Nat) (s : State) :
    afterUnits unit (k + 1) s = (unit (afterUnits unit k s)).decCx := Function.iterate_succ_apply' ..

/-- Under REP, the loop runs exactly CX units. -/
theorem stringUnit.stringExec_eq_afterUnits (h : stringUnit i unit) (hr : s.rep = true)
    (hn : (s.get16 .cx).toNat = n) : stringExec unit s = afterUnits unit n s := by
  induction n generalizing s with
  | zero => exact stringExec_of_cx_zero hr (BitVec.eq_of_toNat_eq hn)
  | succ n ih =>
    have hcx : s.get16 .cx ≠ 0 := fun h0 => by simp [h0] at hn
    rw [h.unroll hr hcx, afterUnits_succ']
    refine ih ((h.rep s).trans hr) ?_
    rw [decCx_cx, h.cx]
    bv_omega

/-! ### What the units leave: by induction on their number -/

theorem State.stepped_zero (s : State) (x : Word) : s.stepped x 0 = x := by simp [State.stepped]

theorem State.stepped_add_delta (s : State) (x : Word) (k : Nat) : s.stepped x k + s.delta = s.stepped x (k + 1) := by
  rw [State.stepped, State.stepped, State.delta, BitVec.ofNat_add]
  split
  · rw [← BitVec.sub_sub, BitVec.sub_eq_add_neg _ (BitVec.ofNat 16 1)]
    rfl
  · exact BitVec.add_assoc ..

/-- Fewer than 2^16 units never come back to an offset (R430). -/
theorem State.stepped_injective {x : Word} {j : Nat} (hj : j < 2 ^ 16) (hk : k < 2 ^ 16)
    (h : s.stepped x j = s.stepped x k) : j = k := by
  rw [State.stepped, State.stepped] at h
  split at h <;> bv_omega

theorem stringUnit.afterUnits_delta (h : stringUnit i unit) (k : Nat) (s : State) :
    (afterUnits unit k s).delta = s.delta := by
  induction k with
  | zero => rfl
  | succ k ih => rw [afterUnits_succ, delta_decCx, h.delta, ih]

theorem stringUnit.afterUnits_cx (h : stringUnit i unit) (k : Nat) (s : State) :
    (afterUnits unit k s).get16 .cx = s.get16 .cx - BitVec.ofNat 16 k := by
  induction k with
  | zero => simp
  | succ k ih =>
    rw [afterUnits_succ, decCx_cx, h.cx, ih, BitVec.sub_sub, BitVec.ofNat_add]
    rfl

theorem stringUnit.afterUnits_si (h : stringUnit i unit) (k : Nat) (s : State) :
    (afterUnits unit k s).get16 .si = s.stepped (s.get16 .si) k := by
  induction k with
  | zero => exact (s.stepped_zero _).symm
  | succ k ih => rw [afterUnits_succ, decCx_si, h.si, ih, h.afterUnits_delta, State.stepped_add_delta]

theorem stringUnit.afterUnits_di (h : stringUnit i unit) (k : Nat) (s : State) :
    (afterUnits unit k s).get16 .di = if i = .lodsb then s.get16 .di else s.stepped (s.get16 .di) k := by
  induction k with
  | zero => rw [State.stepped_zero, ite_self, afterUnits_zero]
  | succ k ih =>
    rw [afterUnits_succ, decCx_di, h.di, ih, h.afterUnits_delta, ← State.stepped_add_delta]
    split <;> rfl

/-- Settles O48: the loop is CX units (`stringExec_eq_afterUnits`), and each counts CX down and moves its registers. -/
theorem repeatConsumesTheFullCount : Obligations.RepeatConsumesTheFullCount := by
  intro i s hi hr
  obtain ⟨unit, h⟩ := exists_stringUnit hi
  refine ⟨_, h.runs s, ?_⟩
  rw [h.stringExec_eq_afterUnits hr rfl]
  exact ⟨by simp [h.afterUnits_cx], h.afterUnits_si _ s, h.afterUnits_di _ s⟩

theorem stringUnit.afterUnits_segs (h : stringUnit i unit) (k : Nat) (s : State) :
    (afterUnits unit k s).segs = s.segs := by
  induction k with
  | zero => rfl
  | succ k ih => rw [afterUnits_succ, State.decCx_segs, h.segs, ih]

theorem stringUnit.afterUnits_ads (h : stringUnit i unit) (k : Nat) (s : State) :
    (afterUnits unit k s).ads = s.ads := by
  induction k with
  | zero => rfl
  | succ k ih => rw [afterUnits_succ, State.decCx_ads, h.ads, ih]

/-- Plain memory stays plain, and canonical, under any number of units. -/
theorem stringUnit.afterUnits_plainAt (h : stringUnit i unit) {as : List Addr} (hp : s.plainAt as) (k : Nat) :
    (afterUnits unit k s).plainAt as := by
  induction k with
  | zero => exact hp
  | succ k ih =>
    obtain ⟨ops, hb⟩ := h.bus (afterUnits unit k s)
    have hdid : busDid ops (afterUnits unit k s) (afterUnits unit (k + 1) s) := by
      rw [afterUnits_succ]
      exact busDid_of_run hb
    exact hdid.plainAt ih

/-! ### The block REP MOVSB copies (R430 to R432) -/

/-- The source byte of unit `k`. -/
def State.srcAt (s : State) (k : Nat) : Addr := s.segAddr s.ads (s.stepped (s.get16 .si) k)

/-- The destination byte of unit `k`. -/
def State.dstAt (s : State) (k : Nat) : Addr := s.segAddr .es (s.stepped (s.get16 .di) k)

theorem State.dstAt_injective {j : Nat} (hj : j < 2 ^ 16) (hk : k < 2 ^ 16) (h : s.dstAt j = s.dstAt k) : j = k :=
  State.stepped_injective hj hk (segAddr_injective h)

theorem stringSrc_afterUnits (k : Nat) (s : State) : (afterUnits movsbUnit k s).stringSrc = s.srcAt k := by
  rw [State.stringSrc, stringUnit_movsb.afterUnits_ads, stringUnit_movsb.afterUnits_si,
    State.segAddr_congr (stringUnit_movsb.afterUnits_segs k s), State.srcAt]

theorem stringDst_afterUnits (k : Nat) (s : State) : (afterUnits movsbUnit k s).stringDst = s.dstAt k := by
  rw [State.stringDst, stringUnit_movsb.afterUnits_di, if_neg (by decide),
    State.segAddr_congr (stringUnit_movsb.afterUnits_segs k s), State.dstAt]

/-- A write to plain memory changes the answer at no other address, a device's among them: no device sees the write. -/
theorem Bus.readByte_after_writeByte_other {b : Bus} {a x : Addr} (v : Byte) (ha : b.isDevice a = false) (h : x ≠ a) :
    (b.after (.writeByte a v)).readByte x = b.readByte x := by
  cases hx : b.isDevice x with
  | false => exact Bus.readByte_after_other hx (by simpa [BusOp.stores] using h)
  | true =>
    have hd := (Bus.atDevice_byte_of_device hx 0).1
    rw [Bus.readByte_of_atDevice hd, Bus.readByte_of_atDevice (by simpa using hd), Bus.after_writeByte v ha]

/-- Between plain memory MOVSB changes one byte, and the answer at no other address. -/
theorem readByte_movsbUnit_other (hp : s.plainAt [s.stringSrc, s.stringDst]) {a : Addr} (h : a ≠ s.stringDst) :
    (movsbUnit s).readByte a = s.readByte a := by
  rw [State.readByte, movsbUnit_bus, Bus.run_cons, Bus.after_readByte (hp.noDevice _ (by simp))]
  exact Bus.readByte_after_writeByte_other _ (hp.noDevice _ (by simp)) h

/-- In `t` the first `k` bytes of the block of `s` are copied, and every other byte is as in `s`. -/
structure blockCopied (s : State) (k : Nat) (t : State) : Prop where
  copied : ∀ j < k, t.readByte (s.dstAt j) = s.readByte (s.srcAt j)
  kept : ∀ a, (∀ j < k, a ≠ s.dstAt j) → t.readByte a = s.readByte a

/-- One unit more copies one byte more: no unit before it wrote its source byte, and it writes none of theirs. -/
theorem blockCopied.succ (h : blockCopied s k t) (hsrc : t.stringSrc = s.srcAt k) (hdst : t.stringDst = s.dstAt k)
    (hp : t.plainAt [s.srcAt k, s.dstAt k]) (hdisj : ∀ j < k, s.srcAt k ≠ s.dstAt j) (hk : k < 2 ^ 16) :
    blockCopied s (k + 1) (movsbUnit t) := by
  have hother : ∀ a, a ≠ s.dstAt k → (movsbUnit t).readByte a = t.readByte a := fun a ha =>
    readByte_movsbUnit_other (by rwa [hsrc, hdst]) (by rwa [hdst])
  have hnew : (movsbUnit t).readByte (s.dstAt k) = t.readByte (s.srcAt k) := by
    rw [← hsrc, ← hdst]
    exact readByte_movsbUnit_dst ⟨hp.wf, by simpa [hdst] using hp.noDevice (s.dstAt k) (by simp)⟩
  refine ⟨fun j hj => ?_, fun a ha => ?_⟩
  · obtain hj | rfl := Nat.lt_succ_iff_lt_or_eq.mp hj
    · rw [hother _ fun he => hj.ne (State.dstAt_injective (hj.trans hk) hk he), h.copied j hj]
    · rw [hnew, h.kept _ hdisj]
  · rw [hother a (ha k k.lt_succ_self), h.kept a fun j hj => ha j (Nat.lt_succ_of_lt hj)]

/-- After `k` of the `n` units, the first `k` bytes are copied. -/
theorem blockCopied_afterUnits (hn : n ≤ 2 ^ 16)
    (hp : s.plainAt ((List.range n).map s.srcAt ++ (List.range n).map s.dstAt))
    (hdisj : ∀ j k, j < n → k < n → s.srcAt j ≠ s.dstAt k) (hk : k ≤ n) :
    blockCopied s k (afterUnits movsbUnit k s) := by
  induction k with
  | zero => exact ⟨fun j hj => absurd hj j.not_lt_zero, fun _ _ => rfl⟩
  | succ k ih =>
    have hkn : k < n := hk
    have hplain : (afterUnits movsbUnit k s).plainAt [s.srcAt k, s.dstAt k] := by
      refine stringUnit_movsb.afterUnits_plainAt ⟨hp.wf, fun a ha => hp.noDevice a ?_⟩ k
      obtain rfl | rfl : a = s.srcAt k ∨ a = s.dstAt k := by simpa using ha
      · exact List.mem_append_left _ (List.mem_map_of_mem (List.mem_range.mpr hkn))
      · exact List.mem_append_right _ (List.mem_map_of_mem (List.mem_range.mpr hkn))
    have hunit := (ih hkn.le).succ (stringSrc_afterUnits k s) (stringDst_afterUnits k s) hplain
      (fun j hj => hdisj k j hkn (hj.trans hkn)) (hkn.trans_le hn)
    rw [afterUnits_succ]
    exact { hunit with }

/-- Settles O49: the loop is CX units, and `blockCopied_afterUnits` speaks of all of them. -/
theorem repMovsbCopiesTheBlock : Obligations.RepMovsbCopiesTheBlock := by
  intro s hr n src dst hp hdisj
  have h : blockCopied s n (afterUnits movsbUnit n s) :=
    blockCopied_afterUnits (s.get16 .cx).isLt.le hp hdisj (Nat.le_refl n)
  rw [← stringUnit_movsb.stringExec_eq_afterUnits hr rfl] at h
  exact ⟨_, rfl, h.copied, h.kept⟩

end Sys2Proof.Machine
end

section
/-! Reset, the sequencer and interrupts (70_reset_and_hazards.md, 60_exceptions.md R500 to R507), and the flag-control
instructions (47_system.md): from `Moves`, what only prefixes and signalled interrupts write; INH at both
ends of a Cycle; the frame of a one-flag write; the value of every flag bit at reset. -/

namespace Sys2Proof.Machine

/-! ### What only prefixes and interrupts write (10_state.md R52, R53, 60_exceptions.md R500, R507) -/

section Moves

variable {i : Instr} {s t : State}

/-- R52: OVR is written by the segment overrides alone. -/
theorem Moves.ovr (h : Moves i s t) (hp : i.isPrefix = false) : t.ovr = s.ovr := by
  induction h with
  | refl => rfl
  | override r hi _ _ => exact absurd (hp.symm.trans hi) Bool.false_ne_true
  | _ => rename_i ih; exact ih

/-- R53: among the prefixes F3 alone writes REP; no other instruction does. -/
theorem Moves.rep_kept (h : Moves i s t) (hp : i.isPrefix = false) : t.rep = s.rep := by
  induction h with
  | refl => rfl
  | rep hi _ _ => exact absurd (hp.symm.trans hi) Bool.false_ne_true
  | _ => rename_i ih; exact ih

/-- The trace record is the Cycle's to write (40_cycle.md R208). -/
theorem Moves.trace (h : Moves i s t) : t.trace = s.trace := by
  induction h with
  | refl => rfl
  | _ => rename_i ih; exact ih

/-- R500: the event of the Cycle is set by a handler call alone. -/
theorem Moves.signal (h : Moves i s t) : t.draws = s.draws → t.signal = s.signal := by
  induction h with
  | refl => exact fun _ => rfl
  | interrupt n _ h _ => exact fun hd => absurd hd (h.draws_ne_of_interrupt n)
  | _ => rename_i ih; exact ih

/-- R507: the handler was called by an instruction that may signal an interrupt. -/
theorem Moves.maySignal_of_draws_ne (h : Moves i s t) : t.draws ≠ s.draws → maySignal i := by
  induction h with
  | refl => exact fun hd => absurd rfl hd
  | interrupt _ hi _ _ => exact fun _ => hi
  | _ => rename_i ih; exact ih

end Moves

/-- Settles O21: each clause is what the writes of the instruction do to one field. -/
theorem onlyIntAndDivSignalAnInterrupt : Obligations.OnlyIntAndDivSignalAnInterrupt := by
  intro i s t hp hi h
  have hm := exec_moves h
  exact ⟨hm.ovr hp, hm.rep_kept hp, hm.fault, hm.inh hi, hm.trace, hm.signal, hm.maySignal_of_draws_ne⟩

/-! ### A Cycle and INH (10_state.md R56, 60_exceptions.md R506) -/

/-- R506: the request is refused before anything is fetched. -/
theorem cycle_of_inh {s : State} (h : s.inh = true) : cycle s = .refused .cycleInHandler := by
  rw [cycle, if_pos h]

theorem step_of_inh {s : State} (h : s.inh = true) : step s = .refused .cycleInHandler := by
  rw [step, cycle_of_inh h]

/-- R56: a Cycle that reports a latched fault leaves the state it began in, any other ends at an instruction boundary. -/
theorem cycle_inh {s t : State} {e : Event} (h : cycle s = .next (e, t)) : t.inh = false := by
  obtain ⟨hi, ⟨-, -, -, rfl⟩ | ⟨hf, -⟩ | ⟨hf, -⟩⟩ := cycle_cases h
  · exact hi
  · exact (cycle_atBoundary hf h).inh
  · exact (cycle_atBoundary hf h).inh

/-- Settles O13: a next state of `step` is that of a Cycle, so `cycle_inh` speaks of both. -/
theorem aCycleDuringTheHandlerIsRefused : Obligations.ACycleDuringTheHandlerIsRefused := by
  refine ⟨fun s hi => ⟨cycle_of_inh hi, step_of_inh hi⟩, fun s t h => ?_, fun s e t => cycle_inh⟩
  obtain ⟨e, hc, -⟩ := cycle_of_step h
  exact cycle_inh hc

/-! ### Software interrupt and flag control (47_system.md R460 to R467) -/

/-- Settles O50: INT is `signalInterrupt`, whose answer is the handler's. -/
theorem intSignalsTheHandler : Obligations.IntSignalsTheHandler :=
  fun n s => ⟨rfl, _, rfl, interruptTaken_signal n s, signalInterrupt_ads n s⟩

theorem setFlag_sameFlagsOutside (s : State) (x : Flag) (b : Bool) : sameFlagsOutside [x] s (s.setFlag x b) := by
  intro n hn
  rw [getLsbD_setFlag, if_neg (hn x (List.mem_singleton_self x)).symm]

theorem setFlag_sequencer (s : State) (x : Flag) (b : Bool) : sameSequencer s (s.setFlag x b) := by
  constructor <;> simp

theorem flag_setFlag_same (s : State) (x : Flag) (b : Bool) : (s.setFlag x b).flag x = b := by
  rw [flag_setFlag, if_pos rfl]

/-- Settles O51: each of the seven is one byte and one flag write, and a flag write keeps everything else. -/
theorem flagControlWritesOneFlag : Obligations.FlagControlWritesOneFlag := by
  intro s i op x b h
  have hexec : encode i = [op] ∧ exec i s = .next (s.setFlag x b) := by
    obtain h | h | h | h | h | h | h := h <;> obtain ⟨rfl, rfl, rfl, rfl⟩ := h <;> exact ⟨rfl, rfl⟩
  obtain ⟨hcode, hnext⟩ := hexec
  exact ⟨hcode, _, hnext, flag_setFlag_same s x b, setFlag_sameFlagsOutside s x b, rfl, rfl, busDid_nil rfl, rfl,
    setFlag_sequencer s x b⟩

/-! ### Reset (70_reset_and_hazards.md R550, R551) -/

/-- R550: IF and ZF are the bits set in 0x00000240. -/
theorem getLsbD_reset_flags (n : Nat) : State.reset.flags.getLsbD n = decide (n = Flag.bit .IF ∨ n = Flag.bit .ZF) := by
  obtain hn | hn := Nat.lt_or_ge n 32
  · revert n
    decide
  · have hIF : n ≠ Flag.bit .IF := ((Flag.bit_lt .IF).trans_le hn).ne'
    have hZF : n ≠ Flag.bit .ZF := ((Flag.bit_lt .ZF).trans_le hn).ne'
    rw [BitVec.getLsbD_of_ge _ _ hn, decide_eq_false (not_or.mpr ⟨hIF, hZF⟩)]

theorem reset_regs_get (n : Slot) : State.reset.regs.get n = 0 := by
  cases n <;> rfl

theorem reset_segs_get (r : SegReg) : State.reset.segs.get r = .reset := by
  cases r <;> rfl

/-- The host's reset is a construction on the bus that stands, but for the last trace record and the count of handler
calls, which are no core state. -/
theorem hostReset_eq_onBus (s : State) :
    s.hostReset = { State.reset.onBus s.bus with trace := s.trace, draws := s.draws } := rfl

/-- Settles O1: both resets are the reset state on `b` but for two fields the statement does not name. -/
theorem resetSetsEveryPieceOfState : Obligations.ResetSetsEveryPieceOfState := by
  intro s t b h
  obtain ⟨tr, d, rfl⟩ : ∃ tr d, t = { State.reset.onBus b with trace := tr, draws := d } := by
    obtain rfl | ⟨rfl, rfl⟩ := h
    · exact ⟨_, _, rfl⟩
    · exact ⟨_, _, hostReset_eq_onBus s⟩
  have hsegs : ∀ r, (State.reset.segs.get r).sel = 0 ∧ (State.reset.segs.get r).base = 0 := fun r => by
    rw [reset_segs_get]
    exact ⟨rfl, rfl⟩
  exact ⟨reset_regs_get, hsegs, getLsbD_reset_flags, rfl, rfl, rfl, rfl, rfl, rfl, rfl⟩

end Sys2Proof.Machine
end
